-- ==== Sys2Proof/Word.lean ====
section
/-! DEFINITION. Word.lean: the widths of the SMC hash block (00_scope.md R7, R10). Every integer of the block is
unsigned; `+` on these types wraps, which is the spec's `+32` and `+64`. -/

namespace Sys2Proof

/-- Eight bits (R10). -/
abbrev Byte := BitVec 8

/-- Thirty-two bits: the state word, the message word, the round constant (R7, R10). -/
abbrev Word := BitVec 32

/-- Sixty-four bits: TOTAL, NONCE, the bit length (R7). -/
abbrev Dword := BitVec 64

/-- The four chaining words H[0..3] (10_state.md R21). -/
abbrev Chain := Vector Word 4

/-- A chunk: always exactly 64 bytes (40_compressor.md R100). -/
abbrev Chunk := Vector Byte 64

/-- A hash: a fixed 16-byte array (10_state.md R25). -/
abbrev Hash := Vector Byte 16

/-- A command frame: a finite byte string of any length (20_memory.md R52, 30_encoding.md R70). -/
abbrev Frame := List Byte

/-- A difficulty the predicate is defined for: 0 to 128 inclusive (00_scope.md R7, 43_pow_engine.md R150). -/
abbrev Difficulty := Fin 129

end Sys2Proof
end

