-- ==== Sys2Proof/Config.lean ====
section
/-! DEFINITION. Config.lean: the open parameters `Params` of 00_scope.md R8. The source prints no value for any of
them (91_not_in_source.md N1), so the machine's own are an opaque constant: nothing can be proved of their values, and a
statement about the machine holds for every choice of them. Every function of the model takes `Params` as an argument
(log 1), so a test may run it under the artificial TESTPARAM-A of 95_test_vectors.md. -/

namespace Sys2Proof

/-- `Params` (R8): initial state words, round constants, rotation amounts. The one constraint the source gives,
1 ≤ ROT[r][j] ≤ 31, is in the type: `rotLess1` holds each amount less one, 0 to 30 (40_compressor.md R106). -/
structure Params where
  /-- `IV[0..3]`. -/
  iv : Chain
  /-- `RK[0..3]`, one per round. -/
  rk : Vector Word 4
  /-- `ROT[r][j] - 1`, four per round. -/
  rotLess1 : Vector (Vector (Fin 31) 4) 4
  deriving DecidableEq, Repr, Inhabited

/-- The device's own parameters: fixed for its life (10_state.md R35), their values OPEN (R8, D15, log 1). -/
opaque Config.params : Params

end Sys2Proof
end

