-- ==== Sys2Proof/Syntax.lean ====
section
/-! DEFINITION. Syntax.lean: the ten commands of 30_encoding.md R79, one constructor per row of opcode_table.json, with
the operands in frame order (R72). Operands of a fixed size carry it in their type, so every value of `Instr` can be
encoded. -/

namespace Sys2Proof

/-- The ten opcodes (R79). -/
inductive Opcode where
  | init | update | final | hash | vdigest | mine | vpow | compress | cteq | lzchk
  deriving DecidableEq, Repr

/-- A command with its operands (R72, R75 to R78). A difficulty operand is a whole byte: 129 to 255 are encodable and
are rejected by the command, not by the decoder (R75). -/
inductive Instr where
  /-- INIT, format Z (41_digest_engine.md R127). -/
  | init
  /-- UPDATE data, format D (R128). -/
  | update (data : List Byte)
  /-- FINAL, format Z (R129). -/
  | final
  /-- HASH data, format D (R130). -/
  | hash (data : List Byte)
  /-- VDIGEST exp, data, format XD (42_digest_verify.md R143). -/
  | vdigest (exp : Hash) (data : List Byte)
  /-- MINE d, data, format DD (43_pow_engine.md R153). -/
  | mine (d : Byte) (data : List Byte)
  /-- VPOW d, nonce, exp, data, format PD (R158). -/
  | vpow (d : Byte) (nonce : Dword) (exp : Hash) (data : List Byte)
  /-- COMPRESS st, m, format C (40_compressor.md R110). -/
  | compress (st : Hash) (m : Chunk)
  /-- CTEQ a, b, format Q (42_digest_verify.md R142). -/
  | cteq (a b : Hash)
  /-- LZCHK d, h, format L (43_pow_engine.md R152). -/
  | lzchk (d : Byte) (h : Hash)
  deriving DecidableEq, Repr

/-- The opcode of a command. -/
def Instr.opcode : Instr → Opcode
  | .init => .init
  | .update _ => .update
  | .final => .final
  | .hash _ => .hash
  | .vdigest _ _ => .vdigest
  | .mine _ _ => .mine
  | .vpow _ _ _ _ => .vpow
  | .compress _ _ => .compress
  | .cteq _ _ => .cteq
  | .lzchk _ _ => .lzchk

end Sys2Proof
end

