-- ==== Sys2Proof/Machine/Bytes.lean ====
section
/-! DEFINITION. Machine/Bytes.lean: byte strings and byte order (00_scope.md R10, 20_memory.md R53 to R56). Everything
is little-endian. -/

namespace Sys2Proof.Machine

/-- The natural number a byte string stands for, least significant byte first. -/
def leNat : List Byte → Nat
  | [] => 0
  | b :: bs => b.toNat + 256 * leNat bs

/-- `LE32(b0, b1, b2, b3)` (R10). -/
def word32 (b0 b1 b2 b3 : Byte) : Word := b3 ++ b2 ++ b1 ++ b0

/-- `le32(w)` (R10). -/
def le32 (w : Word) : List Byte :=
  [w.extractLsb' 0 8, w.extractLsb' 8 8, w.extractLsb' 16 8, w.extractLsb' 24 8]

/-- `le64(n)`: byte k is n[8k+7:8k] (R10, R56). -/
def le64 (n : Dword) : List Byte :=
  [n.extractLsb' 0 8, n.extractLsb' 8 8, n.extractLsb' 16 8, n.extractLsb' 24 8,
   n.extractLsb' 32 8, n.extractLsb' 40 8, n.extractLsb' 48 8, n.extractLsb' 56 8]

/-- `LE64(s)` for an 8-byte string (R10). -/
def dword64 (s : List Byte) : Dword := BitVec.ofNat 64 (leNat s)

/-- The first n bytes of a byte string, as a value of that fixed size. It is used only on strings of at least n bytes;
the zero filler is never reached (log 16). -/
def toVec (n : Nat) (l : List Byte) : Vector Byte n := ⟨(l.takeD n 0).toArray, by simp⟩

/-- `F[i..j)` (R10). -/
def slice (F : List Byte) (i j : Nat) : List Byte := (F.drop i).take (j - i)

/-- `ser(S)`: the four words in order, each little-endian (R54). -/
def ser (S : Chain) : Hash := toVec 16 (le32 S[0] ++ le32 S[1] ++ le32 S[2] ++ le32 S[3])

/-- `deser(B)` (R54). -/
def deser (B : Hash) : Chain :=
  #v[word32 B[0] B[1] B[2] B[3], word32 B[4] B[5] B[6] B[7],
     word32 B[8] B[9] B[10] B[11], word32 B[12] B[13] B[14] B[15]]

/-- `rotl(x, s)`: circular left shift (R10). -/
def rotl (x : Word) (s : Nat) : Word := x.rotateLeft s

end Sys2Proof.Machine
end

