-- ==== Sys2Proof/Machine/Operands.lean ====
section
/-! DEFINITION. Machine/Operands.lean: the operand kinds of 30_encoding.md R75 to R78, read from fixed offsets of a
frame whose length has been checked (R74). Nothing is sign-extended, scaled or shifted (R73). -/

namespace Sys2Proof.Machine

/-- A difficulty operand: the byte at offset 1 (R75). -/
def difficultyOperand (F : Frame) : Byte := F.getD 1 0

/-- A nonce operand: LE64 of the eight bytes from offset 2 (R76). -/
def nonceOperand (F : Frame) : Dword := dword64 (slice F 2 10)

/-- A sixteen-byte operand at offset k: exp, a, b, h (R78 (a)) and the serialised state st (R77). -/
def hashOperand (F : Frame) (k : Nat) : Hash := toVec 16 (slice F k (k + 16))

/-- The chunk operand m at offset 17 (R78 (b)). -/
def chunkOperand (F : Frame) : Chunk := toVec 64 (slice F 17 81)

/-- A data operand: the rest of the frame from offset k (R78 (d)). -/
def dataOperand (F : Frame) (k : Nat) : List Byte := F.drop k

/-- The legal values of a difficulty byte, 0 to 128; the others have none (R75, 60_exceptions.md R175). -/
def difficulty? (d : Byte) : Option Difficulty :=
  if h : d.toNat ≤ 128 then some ⟨d.toNat, by omega⟩ else none

end Sys2Proof.Machine
end

