-- ==== Sys2Proof/Decode.lean ====
section
/-! DEFINITION. Decode.lean: the decoder of 30_encoding.md R71, total on every byte string and rejecting by name, and
the encoder, written from the same table R72. -/

namespace Sys2Proof

open Machine

/-- The opcode byte F[0] of each command (R79). -/
def Opcode.code : Opcode → Byte
  | .init => 0x01
  | .update => 0x02
  | .final => 0x03
  | .hash => 0x04
  | .vdigest => 0x05
  | .mine => 0x06
  | .vpow => 0x07
  | .compress => 0x08
  | .cteq => 0x09
  | .lzchk => 0x0A

/-- The command an opcode byte selects; 0x00 and 0x0B to 0xFF are reserved (R79, R80). -/
def opcodeOf (b : Byte) : Option Opcode :=
  match b.toNat with
  | 0x01 => some .init
  | 0x02 => some .update
  | 0x03 => some .final
  | 0x04 => some .hash
  | 0x05 => some .vdigest
  | 0x06 => some .mine
  | 0x07 => some .vpow
  | 0x08 => some .compress
  | 0x09 => some .cteq
  | 0x0A => some .lzchk
  | _ => none

/-- The bytes of a frame that are not data: the length of the fixed part (R72). -/
def Opcode.fixedLength : Opcode → Nat
  | .init => 1
  | .update => 1
  | .final => 1
  | .hash => 1
  | .vdigest => 17
  | .mine => 2
  | .vpow => 26
  | .compress => 81
  | .cteq => 33
  | .lzchk => 18

/-- Does the format end in a data operand (R72: D, XD, DD, PD)? -/
def Opcode.carriesData : Opcode → Bool
  | .update | .hash | .vdigest | .mine | .vpow => true
  | .init | .final | .compress | .cteq | .lzchk => false

/-- `length_ok(op, n)` (R74). -/
def lengthOk (op : Opcode) (n : Nat) : Bool :=
  if op.carriesData then op.fixedLength ≤ n else n = op.fixedLength

/-- Why a frame is not a command. -/
inductive DecodeError where
  /-- The frame has no byte: E_ILLOP (R80). -/
  | emptyFrame
  /-- The first byte is 0x00 or 0x0B to 0xFF: E_ILLOP (R80). -/
  | reservedOpcode (b : Byte)
  /-- The length is illegal for the opcode: E_FRAME (R74). -/
  | badLength (op : Opcode) (n : Nat)
  deriving DecidableEq, Repr

/-- What the decoder answers: a command, or why there is none. -/
inductive Decoded where
  | command (i : Instr)
  | rejected (e : DecodeError)
  deriving DecidableEq, Repr

/-- Fetch the operands of op from a frame of a legal length (R71, R72). -/
def fetchOperands (op : Opcode) (F : Frame) : Instr :=
  match op with
  | .init => .init
  | .update => .update (dataOperand F 1)
  | .final => .final
  | .hash => .hash (dataOperand F 1)
  | .vdigest => .vdigest (hashOperand F 1) (dataOperand F 17)
  | .mine => .mine (difficultyOperand F) (dataOperand F 2)
  | .vpow => .vpow (difficultyOperand F) (nonceOperand F) (hashOperand F 10) (dataOperand F 26)
  | .compress => .compress (hashOperand F 1) (chunkOperand F)
  | .cteq => .cteq (hashOperand F 1) (hashOperand F 17)
  | .lzchk => .lzchk (difficultyOperand F) (hashOperand F 2)

/-- Decode a frame: the opcode is tested before the length (R71, 60_exceptions.md R178). -/
def decode (F : Frame) : Decoded :=
  match F with
  | [] => .rejected .emptyFrame
  | b :: _ =>
    match opcodeOf b with
    | none => .rejected (.reservedOpcode b)
    | some op =>
      if lengthOk op F.length then .command (fetchOperands op F) else .rejected (.badLength op F.length)

/-- The operand bytes of a command in frame order (R72, R75 to R78). -/
def encodeOperands : Instr → List Byte
  | .init => []
  | .update data => data
  | .final => []
  | .hash data => data
  | .vdigest exp data => exp.toList ++ data
  | .mine d data => d :: data
  | .vpow d nonce exp data => d :: (le64 nonce ++ exp.toList ++ data)
  | .compress st m => st.toList ++ m.toList
  | .cteq a b => a.toList ++ b.toList
  | .lzchk d h => d :: h.toList

/-- The frame of a command: the opcode byte, then the operands (R70, R90). -/
def encode (i : Instr) : Frame := i.opcode.code :: encodeOperands i

/-- The first n bytes of a number, least significant first. -/
def bytesOfNat (w : Nat) : Nat → List Byte
  | 0 => []
  | n + 1 => BitVec.ofNat 8 w :: bytesOfNat (w / 256) n

/-- The frame whose first bytes are w, least significant first, with zero bytes after them up to the shortest frame
its opcode allows (log 10): a frame's length is not in its bits (R70), so a longer data operand has no number. -/
def frameOfWord (nbits w : Nat) : Frame :=
  let F := bytesOfNat w ((nbits + 7) / 8)
  match F with
  | [] => []
  | b :: _ =>
    match opcodeOf b with
    | none => F
    | some op => F ++ List.replicate (op.fixedLength - F.length) 0

/-- The command the decoder reads from `frameOfWord`, none where it rejects it. -/
def decodeTableWord (nbits w : Nat) : Option Instr :=
  match decode (frameOfWord nbits w) with
  | .command i => some i
  | .rejected _ => none

end Sys2Proof
end

