-- ==== Sys2Proof/Machine/State.lean ====
section
/-! DEFINITION. Machine/State.lean: the state of one block (10_state.md R20 to R37), with the host's side of the two
inputs, and the machine right after reset. -/

namespace Sys2Proof.Machine

/-- PHASE (R24). The code 3 is never produced (R28), so there is no fourth constructor. -/
inductive Phase where
  | init | acc | fin
  deriving DecidableEq, Repr

/-- ERR (R30, 60_exceptions.md R170): E_ILLOP, E_FRAME, E_PHASE, E_DIFF, E_LEN, E_EXHAUST. Codes 7 to 15 are never
produced. -/
inductive ErrCode where
  | ok | illop | frame | phase | diff | len | exhaust
  deriving DecidableEq, Repr

/-- An engine context `(H, BUF, BUFLEN, TOTAL)` (41_digest_engine.md R120). `buf` is BUF[0..BUFLEN), so BUFLEN is its
length (93_implementation_defined.md U10, log 3). -/
structure Ctx where
  h : Chain
  buf : List Byte
  total : Dword
  deriving DecidableEq, Repr

/-- What MINE holds between attempts: the difficulty and the data themselves (R33, 43_pow_engine.md R154, R156,
log 5). -/
structure Search where
  difficulty : Difficulty
  data : List Byte
  deriving DecidableEq, Repr

/-- The state: the block's registers, the search in progress, and the host's side of the inputs. -/
structure State where
  /-- H[0..3] (R21). -/
  h : Chain
  /-- BUF[0..BUFLEN) (R22, log 3). -/
  buf : List Byte
  /-- TOTAL (R23). -/
  total : Dword
  /-- PHASE (R24). -/
  phase : Phase
  /-- OUT[0..15] (R25). -/
  out : Hash
  /-- NONCE (R26). -/
  nonce : Dword
  /-- RESULT (R29). -/
  result : Bool
  /-- ERR (R30). -/
  err : ErrCode
  /-- BUSY (R31). -/
  busy : Bool
  /-- The MINE in progress (R33, R154). -/
  search : Option Search
  /-- The model's own: the frames the host has still to present, oldest first (R27, 20_memory.md R52, log 7). -/
  frames : List Frame
  /-- The model's own: the index of R27 in the host's list of frames (log 7). -/
  pc : Nat
  /-- The model's own: the level of the reset input at this step and the next ones, low after the last (R200, log 8). -/
  resetIn : List Bool
  deriving DecidableEq, Repr

/-- Why the machine stops with a fault. No error of 60_exceptions.md is one: every `raise` is a next state (R171). -/
inductive Fault where
  /-- Raised by `step` when BUSY = 1 and no command is in progress: no rule gives such a state a step, and no run from
  reset reaches it (`State.Inv`). Safe: the model stops (log 11). -/
  | busyWithoutCommand
  deriving DecidableEq, Repr

/-- Why an instruction has no meaning. No step of this model answers a refusal. -/
inductive Refusal where
  /-- Raised by an arm of `exec` whose instruction is not modelled: none is left. Safe: the model stops. -/
  | notModelled (mnemonic : String)
  deriving DecidableEq, Repr

/-- What one step of this machine answers. -/
abbrev Result := Host.Outcome State Fault Refusal

/-- The block after reset (R37, 70_reset_and_hazards.md R200) under the given parameters. The last four fields are the
model's own (log 17). -/
def State.resetWith (P : Params) : State where
  h := P.iv
  buf := []
  total := 0
  phase := .init
  out := Vector.replicate 16 0
  nonce := 0
  result := false
  err := .ok
  busy := false
  search := none
  frames := []
  pc := 0
  resetIn := []

/-- The machine right after reset (R37, R200). -/
def State.reset : State := State.resetWith Config.params

end Sys2Proof.Machine
end

