-- ==== Sys2Proof/Machine/Ops.lean ====
section
/-! DEFINITION. Machine/Ops.lean: the shared operations over the state: the engine context, the end of a command, raising
an error, the reset input, the host's list of frames. -/

namespace Sys2Proof.Machine

/-- BUFLEN (10_state.md R22): the number of bytes held in BUF. -/
def State.bufLen (s : State) : Nat := s.buf.length

/-- The engine context of the block (41_digest_engine.md R120). -/
def State.ctx (s : State) : Ctx := ⟨s.h, s.buf, s.total⟩

/-- `(H, BUF, BUFLEN, TOTAL) <- c`. -/
def State.setCtx (s : State) (c : Ctx) : State := { s with h := c.h, buf := c.buf, total := c.total }

/-- `PHASE <- p` (R24). -/
def State.setPhase (s : State) (p : Phase) : State := { s with phase := p }

/-- `OUT <- h` (R25). -/
def State.setOut (s : State) (h : Hash) : State := { s with out := h }

/-- The sequencer accepts a frame: `BUSY <- 1` (R31, 30_encoding.md R71). -/
def State.accept (s : State) : State := { s with busy := true }

/-- Completion without error: `ERR <- 0; RESULT <- verdict; BUSY <- 0` (R29, R30, 30_encoding.md R71). -/
def State.complete (s : State) (verdict : Bool) : State :=
  { s with result := verdict, err := .ok, busy := false, search := none }

/-- `raise E_X` (60_exceptions.md R171): `ERR <- code; RESULT <- 0; BUSY <- 0` and nothing else; the command in progress
is over. There is no handler, no saved state and nothing to return from (R179). -/
def State.raise (s : State) (e : ErrCode) : State :=
  { s with result := false, err := e, busy := false, search := none }

/-- The error a rejected frame raises (R172, R173). -/
def rejectionError : DecodeError → ErrCode
  | .emptyFrame => .illop
  | .reservedOpcode _ => .illop
  | .badLength _ _ => .frame

/-- E_LEN (R176): would the count of submitted bytes, `before` already submitted and `n` more, reach 2^61? -/
def tooLong (before n : Nat) : Bool := 2 ^ 61 ≤ before + n

/-- The reset input is asserted (70_reset_and_hazards.md R200, R203): every register takes its reset value and a command
in progress is abandoned. The host's lists are not the block's and stay; the abandoned frame is not presented again
(log 8). -/
def State.assertReset (P : Params) (s : State) : State :=
  { State.resetWith P with
    frames := s.frames
    pc := if s.busy then s.pc + 1 else s.pc
    resetIn := s.resetIn }

/-- The index of R27 advances by exactly 1 when the command completes, with or without an error. -/
def State.retire (s : State) : State := if s.busy then s else { s with pc := s.pc + 1 }

/-- `State.retire` on the outcome of a command. -/
def retireOutcome : Result → Result
  | .next t => .next t.retire
  | .fault f => .fault f
  | .refused r => .refused r

/-- The reset line as the next step samples it: is it asserted, and the state with that sample consumed (log 8). -/
def State.sampleReset (s : State) : Bool × State :=
  match s.resetIn with
  | [] => (false, s)
  | level :: rest => (level, { s with resetIn := rest })

/-- Drop an assertion of reset at the very next sample. -/
def lineLow : List Bool → List Bool
  | [] => []
  | _ :: rest => false :: rest

/-- The host presents F next, before the frames it already had, to an idle block whose reset input is low (log 10). -/
def State.presentNext (s : State) (F : Frame) : State :=
  { s with frames := F :: s.frames, busy := false, search := none, resetIn := lineLow s.resetIn }

end Sys2Proof.Machine
end

