-- ==== Sys2Proof/Machine/Compressor.lean ====
section
/-! DEFINITION. Machine/Compressor.lean: `compress` and the command COMPRESS (40_compressor.md). -/

namespace Sys2Proof.Machine

/-- Message word w[j] of a chunk (R101). -/
def messageWord (M : Chunk) (j : Fin 16) : Word :=
  word32 M[4 * j.val] M[4 * j.val + 1] M[4 * j.val + 2] M[4 * j.val + 3]

/-- P(r, i): the index of the message word step i of round r uses (R103). -/
def wordIndex (r : Fin 4) (i : Fin 16) : Fin 16 :=
  match r with
  | 0 => i
  | 1 => ⟨(5 * i.val + 1) % 16, by omega⟩
  | 2 => ⟨(3 * i.val + 5) % 16, by omega⟩
  | 3 => ⟨(7 * i.val) % 16, by omega⟩

/-- F(r, b, c, d): the Boolean mixing function of round r (R104). -/
def mixFunction (r : Fin 4) (b c d : Word) : Word :=
  match r with
  | 0 => (b &&& c) ||| (~~~b &&& d)
  | 1 => (b &&& d) ||| (c &&& ~~~d)
  | 2 => b ^^^ c ^^^ d
  | 3 => c ^^^ (b ||| ~~~d)

/-- k = RK[r] + i, with i the index within the round (R105, log 2). -/
def stepConstant (P : Params) (r : Fin 4) (i : Fin 16) : Word := P.rk[r.val] + BitVec.ofNat 32 i.val

/-- s = ROT[r][i mod 4], in 1..31 (R106). -/
def rotAmount (P : Params) (r : Fin 4) (i : Fin 16) : Nat := (P.rotLess1[r.val][i.val % 4]'(by omega)).val + 1

/-- The working registers of one chunk compression (10_state.md R32, R102). -/
structure Regs where
  a : Word
  b : Word
  c : Word
  d : Word
  deriving DecidableEq, Repr

/-- Step i of round r: all four assignments read the registers as they were (R107). -/
def mixStep (P : Params) (M : Chunk) (r : Fin 4) (g : Regs) (i : Fin 16) : Regs :=
  let t := g.a + mixFunction r g.b g.c g.d + messageWord M (wordIndex r i) + stepConstant P r i
  { a := g.d, b := g.b + rotl t (rotAmount P r i), c := g.b, d := g.c }

/-- The rounds in order (R102). -/
def rounds : List (Fin 4) := [0, 1, 2, 3]

/-- The steps of a round in order (R102). -/
def steps : List (Fin 16) := [0, 1, 2, 3, 4, 5, 6, 7, 8, 9, 10, 11, 12, 13, 14, 15]

/-- The sixteen steps of one round (R107). -/
def mixRound (P : Params) (M : Chunk) (g : Regs) (r : Fin 4) : Regs := steps.foldl (mixStep P M r) g

/-- The four state words in the working registers (R102). -/
def loadRegs (S : Chain) : Regs := ⟨S[0], S[1], S[2], S[3]⟩

/-- `compress(S, M)`: 64 steps and the feed-forward addition (R107). -/
def compress (P : Params) (S : Chain) (M : Chunk) : Chain :=
  let g := rounds.foldl (mixRound P M) (loadRegs S)
  #v[S[0] + g.a, S[1] + g.b, S[2] + g.c, S[3] + g.d]

/-- COMPRESS (R110) under the given parameters: it leaves the engine context, PHASE and NONCE alone. -/
def execCompressWith (P : Params) (st : Hash) (m : Chunk) (s : State) : Result :=
  .next ((s.setOut (ser (compress P (deser st) m))).complete false)

/-- COMPRESS (R110). -/
def execCompress (st : Hash) (m : Chunk) (s : State) : Result := execCompressWith Config.params st m s

end Sys2Proof.Machine
end

