-- ==== Sys2Proof/Machine/Digest.lean ====
section
/-! DEFINITION. Machine/Digest.lean: the Digest Engine and the commands INIT, UPDATE, FINAL, HASH (41_digest_engine.md). -/

namespace Sys2Proof.Machine

/-- The fresh context: H = IV, an empty buffer, TOTAL = 0 (R120). -/
def fresh (P : Params) : Ctx := ⟨P.iv, [], 0⟩

/-- One pass of the loop of R121: a byte into BUF, and a compression when BUF holds 64. -/
def absorbByte (P : Params) (c : Ctx) (x : Byte) : Ctx :=
  let filled := c.buf ++ [x]
  if filled.length = 64 then
    { h := compress P c.h (toVec 64 filled), buf := [], total := c.total + 1 }
  else
    { h := c.h, buf := filled, total := c.total + 1 }

/-- `absorb(ctx, s)` (R121). -/
def absorb (P : Params) (c : Ctx) (s : List Byte) : Ctx := s.foldl (absorbByte P) c

/-- `z = (55 - L) mod 64`: the number of zero bytes of the padding (R124). The sum is taken from 119 so that natural
subtraction does not cut it off: L is at most 63. -/
def padZeros (L : Nat) : Nat := (119 - L % 64) % 64

/-- What finalization appends to a message of bit length bl whose buffered length is L (R124). -/
def padding (L : Nat) (bl : Dword) : List Byte := [0x80] ++ List.replicate (padZeros L) 0x00 ++ le64 bl

/-- `finish(ctx)` (R124): the context it leaves; the padding is not counted in TOTAL. -/
def finish (P : Params) (c : Ctx) : Ctx :=
  let tail := c.buf ++ padding c.buf.length (c.total * 8)
  let h1 := compress P c.h (toVec 64 (slice tail 0 64))
  let h2 := if tail.length = 128 then compress P h1 (toVec 64 (slice tail 64 128)) else h1
  { h := h2, buf := [], total := c.total }

/-- The hash `finish` returns: `ser(H)` (R124). -/
def finishHash (P : Params) (c : Ctx) : Hash := ser (finish P c).h

/-- `digest(s) = finish(absorb(fresh, s))` (R126). -/
def digest (P : Params) (s : List Byte) : Hash := finishHash P (absorb P (fresh P) s)

/-- INIT (R127) under the given parameters: legal in every phase, keeps OUT and NONCE. -/
def execInitWith (P : Params) (s : State) : Result :=
  .next (((s.setCtx (fresh P)).setPhase .init).complete false)

/-- INIT (R127). -/
def execInit (s : State) : Result := execInitWith Config.params s

/-- UPDATE (R128) under the given parameters: E_PHASE before E_LEN. -/
def execUpdateWith (P : Params) (data : List Byte) (s : State) : Result :=
  if s.phase = .fin then .next (s.raise .phase)
  else if tooLong s.total.toNat data.length then .next (s.raise .len)
  else .next (((s.setCtx (absorb P s.ctx data)).setPhase .acc).complete false)

/-- UPDATE (R128). -/
def execUpdate (data : List Byte) (s : State) : Result := execUpdateWith Config.params data s

/-- FINAL (R129) under the given parameters. -/
def execFinalWith (P : Params) (s : State) : Result :=
  if s.phase = .fin then .next (s.raise .phase)
  else .next ((((s.setCtx (finish P s.ctx)).setOut (finishHash P s.ctx)).setPhase .fin).complete false)

/-- FINAL (R129). -/
def execFinal (s : State) : Result := execFinalWith Config.params s

/-- HASH (R130) under the given parameters: a fresh context whatever the phase. -/
def execHashWith (P : Params) (data : List Byte) (s : State) : Result :=
  if tooLong 0 data.length then .next (s.raise .len)
  else
    .next ((((s.setCtx (finish P (absorb P (fresh P) data))).setOut (digest P data)).setPhase .fin).complete false)

/-- HASH (R130). -/
def execHash (data : List Byte) (s : State) : Result := execHashWith Config.params data s

end Sys2Proof.Machine
end

