-- ==== Sys2Proof/Machine/Verify.lean ====
section
/-! DEFINITION. Machine/Verify.lean: the comparator and the commands CTEQ and VDIGEST (42_digest_verify.md). -/

namespace Sys2Proof.Machine

/-- The accumulator of the comparison: OR of XOR over all sixteen byte pairs, no early exit (R140). -/
def cteqAcc (a b : Hash) : Byte := (a.toList.zip b.toList).foldl (fun acc p => acc ||| (p.1 ^^^ p.2)) 0

/-- `cteq(a, b)` (R140). Its data-independent timing is outside the model (R141, log 18). -/
def cteq (a b : Hash) : Bool := cteqAcc a b = 0

/-- CTEQ (R142): it leaves the engine context, PHASE, OUT and NONCE alone. -/
def execCteq (a b : Hash) (s : State) : Result := .next (s.complete (cteq a b))

/-- VDIGEST (R143) under the given parameters: the recomputed hash is compared, not shown. -/
def execVdigestWith (P : Params) (exp : Hash) (data : List Byte) (s : State) : Result :=
  if tooLong 0 data.length then .next (s.raise .len)
  else
    .next (((s.setCtx (finish P (absorb P (fresh P) data))).setPhase .fin).complete (cteq (digest P data) exp))

/-- VDIGEST (R143). -/
def execVdigest (exp : Hash) (data : List Byte) (s : State) : Result := execVdigestWith Config.params exp data s

end Sys2Proof.Machine
end

