-- ==== Sys2Proof/Machine/Pow.lean ====
section
/-! DEFINITION. Machine/Pow.lean: the Proof-of-Work Engine and the commands LZCHK, MINE, VPOW (43_pow_engine.md). -/

namespace Sys2Proof.Machine

/-- `0xFF >> (8 - rb)`: the low rb bits of a byte (R150). -/
def lowMask (rb : Nat) : Byte := 0xFF#8 >>> (8 - rb)

/-- `lzpred(h, d)` as R150 writes it: the first d div 8 bytes are zero, and so are the d mod 8 LEAST significant bits of
the next one (90_conflicts.md C1). -/
def lzpred (h : Hash) (d : Difficulty) : Bool :=
  (h.toList.take (d.val / 8)).all (· == 0x00) &&
    (if hr : 0 < d.val % 8 then (h[d.val / 8]'(by omega) &&& lowMask (d.val % 8)) == 0x00 else true)

/-- The preimage of an attempt: `data ‖ le64(n)` (R151). -/
def preimage (data : List Byte) (n : Dword) : List Byte := data ++ le64 n

/-- `powhash(data, n) = digest(data ‖ le64(n))` (R151). -/
def powhash (P : Params) (data : List Byte) (n : Dword) : Hash := digest P (preimage data n)

/-- `powverify(data, n, d, exp)`: both checks (R157). -/
def powverify (P : Params) (data : List Byte) (n : Dword) (d : Difficulty) (exp : Hash) : Bool :=
  cteq (powhash P data n) exp && lzpred exp d

/-- The context after a proof-of-work hash h: `(H, BUFLEN, TOTAL) <- (deser(h), 0, len(data) + 8)` (R153, R158). -/
def spentCtx (h : Hash) (data : List Byte) : Ctx := ⟨deser h, [], BitVec.ofNat 64 (data.length + 8)⟩

/-- The function `mine` of R156 by its search order: the first nonce from n on, in at most `fuel` attempts, whose hash
passes, with that hash; none where nonce 2^64 - 1 is reached without success. -/
def mineFrom (P : Params) (data : List Byte) (d : Difficulty) : Nat → Dword → Option (Dword × Hash)
  | 0, _ => none
  | fuel + 1, n =>
    if lzpred (powhash P data n) d then some (n, powhash P data n)
    else if n = BitVec.allOnes 64 then none
    else mineFrom P data d fuel (n + 1)

/-- `mine(data, d)` (R156): the whole nonce space from 0. -/
def mine (P : Params) (data : List Byte) (d : Difficulty) : Option (Dword × Hash) :=
  mineFrom P data d (2 ^ 64) 0

/-- LZCHK (R152): E_DIFF for a difficulty the predicate is not defined for. -/
def execLzchk (d : Byte) (h : Hash) (s : State) : Result :=
  match difficulty? d with
  | none => .next (s.raise .diff)
  | some d => .next (s.complete (lzpred h d))

/-- One attempt of MINE, at the nonce in NONCE (R154): it finishes the command, or raises E_EXHAUST after the last nonce
(60_exceptions.md R177), or counts NONCE up with BUSY = 1 and the search held (logs 4, 5, 12). -/
def State.attempt (P : Params) (j : Search) (s : State) : State :=
  let h := powhash P j.data s.nonce
  if lzpred h j.difficulty then
    (((s.setCtx (spentCtx h j.data)).setOut h).setPhase .fin).complete false
  else if s.nonce = BitVec.allOnes 64 then
    ((s.setCtx (spentCtx h j.data)).setPhase .fin).raise .exhaust
  else { s with nonce := s.nonce + 1, busy := true, search := some j }

/-- MINE (R153) under the given parameters: the tests, `NONCE <- 0` and the first attempt; the later attempts are steps
of their own (R154, log 4). -/
def execMineWith (P : Params) (d : Byte) (data : List Byte) (s : State) : Result :=
  match difficulty? d with
  | none => .next (s.raise .diff)
  | some d =>
    if tooLong data.length 8 then .next (s.raise .len)
    else .next (State.attempt P ⟨d, data⟩ { s with nonce := 0 })

/-- MINE (R153). -/
def execMine (d : Byte) (data : List Byte) (s : State) : Result := execMineWith Config.params d data s

/-- The sequencer goes on with the MINE in progress: one more attempt (R154). -/
def continueSearchWith (P : Params) (s : State) : Result :=
  match s.search with
  | some j => .next (s.attempt P j)
  | none => .fault .busyWithoutCommand

/-- The sequencer goes on with the MINE in progress (R154). -/
def continueSearch (s : State) : Result := continueSearchWith Config.params s

/-- VPOW (R158) under the given parameters: the operand nonce is not copied to NONCE, the hash is not shown. -/
def execVpowWith (P : Params) (d : Byte) (nonce : Dword) (exp : Hash) (data : List Byte) (s : State) : Result :=
  match difficulty? d with
  | none => .next (s.raise .diff)
  | some d =>
    if tooLong data.length 8 then .next (s.raise .len)
    else
      .next (((s.setCtx (spentCtx (powhash P data nonce) data)).setPhase .fin).complete
        (powverify P data nonce d exp))

/-- VPOW (R158). -/
def execVpow (d : Byte) (nonce : Dword) (exp : Hash) (data : List Byte) (s : State) : Result :=
  execVpowWith Config.params d nonce exp data s

end Sys2Proof.Machine
end

