-- ==== Sys2Proof/Machine/Dispatch.lean ====
section
/-! DEFINITION. Machine/Dispatch.lean: the meaning of each command. -/

namespace Sys2Proof.Machine

def exec (i : Instr) (s : State) : Host.Outcome State Fault Refusal :=
  match i with
  | .init => Sys2Proof.Machine.execInit s
  | .update data => Sys2Proof.Machine.execUpdate data s
  | .final => Sys2Proof.Machine.execFinal s
  | .hash data => Sys2Proof.Machine.execHash data s
  | .vdigest exp data => Sys2Proof.Machine.execVdigest exp data s
  | .mine d data => Sys2Proof.Machine.execMine d data s
  | .vpow d nonce exp data => Sys2Proof.Machine.execVpow d nonce exp data s
  | .compress st m => Sys2Proof.Machine.execCompress st m s
  | .cteq a b => Sys2Proof.Machine.execCteq a b s
  | .lzchk d h => Sys2Proof.Machine.execLzchk d h s

end Sys2Proof.Machine
end

