-- ==== Sys2Proof/Machine/Step.lean ====
section
/-! DEFINITION. Machine/Step.lean: one step of the machine. The reset input acts at any time (70_reset_and_hazards.md
R200); otherwise a busy block makes one attempt of its MINE (43_pow_engine.md R154), and an idle one executes the next
frame the host presents (30_encoding.md R71), if there is one. -/

namespace Sys2Proof.Machine

/-- `execute(F)` (R71): accept, decode, run the command's rule or raise the rejection's error. -/
def execute (F : Frame) (s : State) : Result :=
  match decode F with
  | .command i => exec i s.accept
  | .rejected e => .next (s.accept.raise (rejectionError e))

/-- One step with the reset input low. An idle block the host presents nothing to stays as it is (log 7). -/
def stepRunning (s : State) : Result :=
  if s.busy then retireOutcome (continueSearch s)
  else
    match s.frames with
    | [] => .next s
    | F :: rest => retireOutcome (execute F { s with frames := rest })

/-- One step of the machine (10_state.md R20). -/
def step (s : State) : Host.Outcome State Fault Refusal :=
  match s.sampleReset with
  | (true, t) => .next (t.assertReset Config.params)
  | (false, t) => stepRunning t

/-- The frame of the instruction w, presented next to an idle block (log 10). -/
def State.withFetchWord (s : State) (nbits w : Nat) : State := s.presentNext (frameOfWord nbits w)

end Sys2Proof.Machine
end

