-- ==== Sys2Proof/Machine/Flags.lean ====
section
/-! DEFINITION. Machine/Flags.lean: the status register and the three read-only output ports (10_state.md R28 to R31,
20_memory.md R51). STATUS is computed from its fields, each of which has one home in State. -/

namespace Sys2Proof.Machine

/-- STATUS[2:1] (R24). -/
def Phase.code : Phase → BitVec 2
  | .init => 0
  | .acc => 1
  | .fin => 2

/-- STATUS[7:4] (60_exceptions.md R170). -/
def ErrCode.code : ErrCode → BitVec 4
  | .ok => 0
  | .illop => 1
  | .frame => 2
  | .phase => 3
  | .diff => 4
  | .len => 5
  | .exhaust => 6

/-- One bit. -/
def oneBit (b : Bool) : BitVec 1 := BitVec.ofBool b

/-- STATUS: ERR in bits 7:4, RESULT in bit 3, PHASE in bits 2:1, BUSY in bit 0 (R28). -/
def State.status (s : State) : Byte := s.err.code ++ oneBit s.result ++ s.phase.code ++ oneBit s.busy

/-- The OUT port as a 128-bit value: OUT[k] at bits 8k+7:8k (R25, R51). -/
def State.outPort (s : State) : BitVec 128 := BitVec.ofNat 128 (leNat s.out.toList)

/-- A host read of STATUS[0]: always given (R31). -/
def State.readBusy (s : State) : Bool := s.busy

/-- A host read of STATUS: none while BUSY = 1, when bits 7:1 are unspecified (R31, R210, log 9). -/
def State.readStatus (s : State) : Option Byte := if s.busy then none else some s.status

/-- A host read of OUT: none while BUSY = 1 (R31, log 9). -/
def State.readOut (s : State) : Option (BitVec 128) := if s.busy then none else some s.outPort

/-- A host read of NONCE: none while BUSY = 1 (R31, log 9). -/
def State.readNonce (s : State) : Option Dword := if s.busy then none else some s.nonce

end Sys2Proof.Machine
end

