-- ==== Sys2Proof/Machine/Pseudo.lean ====
section
/-! DEFINITION. Machine/Pseudo.lean: the pseudo-instructions of 30_encoding.md R91 to R94, as the commands they expand
to. They are the assembler's, not the hardware's (log 21). -/

namespace Sys2Proof.Machine

/-- The pseudo-instructions. -/
inductive Pseudo where
  /-- DIGEST (R91). -/
  | digest (data : List Byte)
  /-- VERIFY_DIGEST (R91). -/
  | verifyDigest (data : List Byte) (exp : Hash)
  /-- VERIFY_POW (R91). -/
  | verifyPow (data : List Byte) (nonce : Dword) (d : Byte) (exp : Hash)
  /-- DIGEST_STREAM (R92). -/
  | digestStream (pieces : List (List Byte))
  /-- BLOCK_NEW (R93). -/
  | blockNew (prev : Hash) (payload : List Byte) (ts : Dword) (d : Byte)
  /-- BLOCK_VALIDATE (R94). -/
  | blockValidate (prev : Hash) (payload : List Byte) (ts nonce : Dword) (hash : Hash) (d : Byte)
  deriving DecidableEq, Repr

/-- `prev ‖ payload ‖ le64(ts)` (R93). -/
def blockPreimage (prev : Hash) (payload : List Byte) (ts : Dword) : List Byte := prev.toList ++ payload ++ le64 ts

/-- The commands a pseudo-instruction expands to. -/
def Pseudo.expand : Pseudo → List Instr
  | .digest data => [.hash data]
  | .verifyDigest data exp => [.vdigest exp data]
  | .verifyPow data nonce d exp => [.vpow d nonce exp data]
  | .digestStream pieces => [Instr.init] ++ pieces.map Instr.update ++ [Instr.final]
  | .blockNew prev payload ts d => [.mine d (blockPreimage prev payload ts)]
  | .blockValidate prev payload ts nonce hash d => [.vpow d nonce hash (blockPreimage prev payload ts)]

/-- Commands one after another (20_memory.md R59), stopping at a fault or a refusal. It is for commands that complete in
their first step: all but a MINE that goes on. -/
def execAll : List Instr → State → Result
  | [], s => .next s
  | i :: is, s =>
    match exec i s with
    | .next t => execAll is t
    | .fault f => .fault f
    | .refused r => .refused r

end Sys2Proof.Machine
end

