-- ==== Sys2Proof/Machine/Message.lean ====
section
/-! DEFINITION. Machine/Message.lean: the source's own view of the Digest Engine, over whole messages and not byte by
byte (41_digest_engine.md R122, R126). No command runs through it: statements compare the machine with it. -/

namespace Sys2Proof.Machine

/-- The chunks of a byte string: its consecutive 64-byte substrings from byte 0, as many as fit whole (R122). -/
def wholeChunks (m : List Byte) : List Chunk :=
  (List.range (m.length / 64)).map fun k => toVec 64 (slice m (64 * k) (64 * k + 64))

/-- The chaining words after the chunks of m, starting from h (R126). -/
def chainOver (P : Params) (h : Chain) (m : List Byte) : Chain := (wholeChunks m).foldl (compress P) h

/-- What is left of m after its whole chunks: its last `len(m) mod 64` bytes (R122). -/
def remainder (m : List Byte) : List Byte := m.drop (64 * (m.length / 64))

/-- `pad(s) = s ‖ 0x80 ‖ 0x00^((55 - len(s)) mod 64) ‖ le64(8·len(s))` (R126). -/
def pad (m : List Byte) : List Byte := m ++ padding m.length (BitVec.ofNat 64 (8 * m.length))

end Sys2Proof.Machine
end

