-- ==== Sys2Proof/Safety.lean ====
section
/-! DEFINITION. Safety.lean: the invariants between commands (10_state.md R36) and what a safe run is. -/

namespace Sys2Proof.Machine

/-- R36, bullet by bullet: what the engine context means whenever BUSY = 0. `m` stands for the bytes submitted since the
context was made, or, after finalization, for the last hashed message. -/
structure EngineInv (P : Params) (s : State) : Prop where
  bufLen_le : s.bufLen ≤ 63
  streaming : s.phase ≠ .fin → s.bufLen = s.total.toNat % 64 ∧
    ∃ m : List Byte, m.length = s.total.toNat ∧ s.h = chainOver P P.iv m ∧ s.buf = remainder m
  initial : s.phase = .init → s.total = 0 ∧ s.bufLen = 0 ∧ s.h = P.iv
  finished : s.phase = .fin → s.bufLen = 0 ∧
    ∃ m : List Byte, m.length = s.total.toNat ∧ s.h = chainOver P P.iv (pad m)
  total_lt : s.total.toNat < 2 ^ 61

/-- The machine's invariant: R36 whenever BUSY = 0; BUSY = 1 exactly while a search is held, of data that passed the
E_LEN test (R176); and RESULT = 1 only with ERR = OK (R29). -/
structure State.Inv (s : State) : Prop where
  idle : s.busy = false → EngineInv Config.params s
  busy_search : s.busy = s.search.isSome
  search_fits : ∀ j, s.search = some j → j.data.length + 8 < 2 ^ 61
  result_ok : s.result = true → s.err = .ok

/-- A step that neither faults nor refuses. -/
def Safe (s : State) : Prop := ∃ t, step s = .next t

/-- A run that goes on for as many steps as one likes. -/
def SafeRun (s : State) : Prop := ∀ k, ∃ t, Host.Core.run Sys2Proof.core k s = .next t

end Sys2Proof.Machine
end

