-- ==== Sys2Proof/WellFormed.lean ====
section
/-! DEFINITION. WellFormed.lean: which commands have operand values the spec calls legal. Sizes are in the types of
`Instr`; what is left to check is the difficulty byte (30_encoding.md R75, R80) and the length of the data (60_exceptions.md
R176). An ill-formed command is still encodable, decodes and runs: it ends in E_DIFF or E_LEN. -/

namespace Sys2Proof

/-- R75, R175: every difficulty operand is at most 128. -/
def Instr.difficultyLegal : Instr → Bool
  | .mine d _ => d.toNat ≤ 128
  | .vpow d _ _ _ => d.toNat ≤ 128
  | .lzchk d _ => d.toNat ≤ 128
  | .init | .update _ | .final | .hash _ | .vdigest _ _ | .compress _ _ | .cteq _ _ => true

/-- R176: the bytes the command submits (with the 8 nonce bytes of MINE and VPOW) are fewer than 2^61. -/
def Instr.lengthLegal : Instr → Bool
  | .update data => data.length < 2 ^ 61
  | .hash data => data.length < 2 ^ 61
  | .vdigest _ data => data.length < 2 ^ 61
  | .mine _ data => data.length + 8 < 2 ^ 61
  | .vpow _ _ _ data => data.length + 8 < 2 ^ 61
  | .init | .final | .compress _ _ | .cteq _ _ | .lzchk _ _ => true

/-- Every operand value is legal. -/
def Instr.wellFormed (i : Instr) : Bool := i.difficultyLegal && i.lengthLegal

end Sys2Proof
end

