-- ==== Sys2Proof/Certificates/Slice0/Obligations.lean ====
section
/-! DEFINITION. Certificates/Slice0/Obligations.lean: the statements for the provers. Where a statement speaks of a step,
`s.sampleReset = (false, u)` says that the reset input is low at this step and u is s with that sample consumed. -/

open Sys2Proof Sys2Proof.Machine

/-! ### Encoding (30_encoding.md) -/

/-- Decoding the frame of any command gives the command back, with every operand (R70, R72, R75 to R79). -/
def Obligations.DecodeInvertsEncode : Prop := ∀ i : Instr, decode (encode i) = .command i

/-- A frame that decodes is the frame of the command it decodes to: no byte of it is dropped (R70, R72). -/
def Obligations.EncodeInvertsDecode : Prop := ∀ (F : Frame) (i : Instr), decode F = .command i → encode i = F

/-- Frames written out from R72 and R79, at least one of each of the eight formats, decode to the commands they stand
for. -/
def Obligations.WrittenOutFramesDecode : Prop :=
  decode [0x01] = .command .init ∧
  decode [0x03] = .command .final ∧
  decode [0x02, 0x61, 0x62] = .command (.update [0x61, 0x62]) ∧
  decode [0x04] = .command (.hash []) ∧
  decode [0x06, 0x08, 0x61] = .command (.mine 8 [0x61]) ∧
  decode [0x05, 0, 1, 2, 3, 4, 5, 6, 7, 8, 9, 10, 11, 12, 13, 14, 15, 0x61] =
    .command (.vdigest #v[0, 1, 2, 3, 4, 5, 6, 7, 8, 9, 10, 11, 12, 13, 14, 15] [0x61]) ∧
  decode [0x07, 0x08, 0x8a, 0x02, 0, 0, 0, 0, 0, 0, 0, 1, 2, 3, 4, 5, 6, 7, 8, 9, 10, 11, 12, 13, 14, 15, 0x61] =
    .command (.vpow 8 650 #v[0, 1, 2, 3, 4, 5, 6, 7, 8, 9, 10, 11, 12, 13, 14, 15] [0x61]) ∧
  decode [0x08, 0x80, 0x81, 0x82, 0x83, 0x84, 0x85, 0x86, 0x87, 0x88, 0x89, 0x8a, 0x8b, 0x8c, 0x8d, 0x8e, 0x8f,
      0, 1, 2, 3, 4, 5, 6, 7, 8, 9, 10, 11, 12, 13, 14, 15,
      16, 17, 18, 19, 20, 21, 22, 23, 24, 25, 26, 27, 28, 29, 30, 31,
      32, 33, 34, 35, 36, 37, 38, 39, 40, 41, 42, 43, 44, 45, 46, 47,
      48, 49, 50, 51, 52, 53, 54, 55, 56, 57, 58, 59, 60, 61, 62, 63] =
    .command (.compress #v[0x80, 0x81, 0x82, 0x83, 0x84, 0x85, 0x86, 0x87, 0x88, 0x89, 0x8a, 0x8b, 0x8c, 0x8d, 0x8e, 0x8f]
     #v[0, 1, 2, 3, 4, 5, 6, 7, 8, 9, 10, 11, 12, 13, 14, 15,
      16, 17, 18, 19, 20, 21, 22, 23, 24, 25, 26, 27, 28, 29, 30, 31,
      32, 33, 34, 35, 36, 37, 38, 39, 40, 41, 42, 43, 44, 45, 46, 47,
      48, 49, 50, 51, 52, 53, 54, 55, 56, 57, 58, 59, 60, 61, 62, 63]) ∧
  decode [0x09, 0, 1, 2, 3, 4, 5, 6, 7, 8, 9, 10, 11, 12, 13, 14, 15, 0x80, 0x81, 0x82, 0x83, 0x84, 0x85, 0x86, 0x87, 0x88, 0x89, 0x8a, 0x8b, 0x8c, 0x8d, 0x8e, 0x8f] =
    .command (.cteq #v[0, 1, 2, 3, 4, 5, 6, 7, 8, 9, 10, 11, 12, 13, 14, 15]
      #v[0x80, 0x81, 0x82, 0x83, 0x84, 0x85, 0x86, 0x87, 0x88, 0x89, 0x8a, 0x8b, 0x8c, 0x8d, 0x8e, 0x8f]) ∧
  decode [0x0a, 0x81, 0, 1, 2, 3, 4, 5, 6, 7, 8, 9, 10, 11, 12, 13, 14, 15] =
    .command (.lzchk 129 #v[0, 1, 2, 3, 4, 5, 6, 7, 8, 9, 10, 11, 12, 13, 14, 15])

/-- E_ILLOP (R172): an idle block given the empty frame or one whose first byte is 0x00 or 0x0B to 0xFF ends with
ERR = 1 and RESULT = 0, the rest of the frame ignored and nothing else changed; the frame is consumed. -/
def Obligations.ReservedOpcodeIsRefused : Prop :=
  ∀ (s u : State) (F : Frame) (rest : List Frame),
    s.sampleReset = (false, u) → u.busy = false → u.search = none → u.frames = F :: rest →
    (F = [] ∨ ∃ b bs, F = b :: bs ∧ (b.toNat = 0 ∨ 0x0B ≤ b.toNat)) →
      step s = .next { u with frames := rest, pc := u.pc + 1, result := false, err := .illop }

/-- E_FRAME (R173): an idle block given a legal opcode with a length its format does not allow ends with ERR = 2 and
RESULT = 0 and nothing else changed, whatever PHASE and the operand bytes are. -/
def Obligations.IllegalLengthIsRefused : Prop :=
  ∀ (s u : State) (b : Byte) (bs : List Byte) (rest : List Frame),
    s.sampleReset = (false, u) → u.busy = false → u.search = none → u.frames = (b :: bs) :: rest →
    (((b = 0x01 ∨ b = 0x03) ∧ bs.length + 1 ≠ 1) ∨ (b = 0x08 ∧ bs.length + 1 ≠ 81) ∨
      (b = 0x09 ∧ bs.length + 1 ≠ 33) ∨ (b = 0x0A ∧ bs.length + 1 ≠ 18) ∨
      (b = 0x05 ∧ bs.length + 1 < 17) ∨ (b = 0x06 ∧ bs.length + 1 < 2) ∨ (b = 0x07 ∧ bs.length + 1 < 26)) →
      step s = .next { u with frames := rest, pc := u.pc + 1, result := false, err := .frame }

/-! ### The step (10_state.md R20, R27, R31; 30_encoding.md R71) -/

/-- A step runs the decoded command: with the reset input low, an idle block whose next frame decodes to i does exec of
i with BUSY set and the frame consumed; when the command has completed (BUSY = 0) the index of R27 advances by one. -/
def Obligations.StepRunsDecodedCommand : Prop :=
  ∀ (s u : State) (F : Frame) (rest : List Frame) (i : Instr),
    s.sampleReset = (false, u) → u.busy = false → u.frames = F :: rest → decode F = .command i →
      step s =
        match exec i { u with frames := rest, busy := true } with
        | .next t => .next (if t.busy then t else { t with pc := t.pc + 1 })
        | .fault f => .fault f
        | .refused r => .refused r

/-- A block with BUSY = 1 and the reset input low accepts no frame (R31, R52): whatever frames the host holds ready, the
step takes none of them and does the same to everything else. -/
def Obligations.BusyBlockTakesNoFrame : Prop :=
  ∀ (s u t : State) (fs : List Frame), s.sampleReset = (false, u) → u.busy = true → step s = .next t →
    t.frames = s.frames ∧ step { s with frames := fs } = .next { t with frames := fs }

/-- MODEL'S CHOICE, log 7: an idle block to which the host presents nothing stays as it is. -/
def Obligations.IdleBlockStays : Prop :=
  ∀ s u : State, s.sampleReset = (false, u) → u.busy = false → u.frames = [] → step s = .next u

/-! ### Reset (70_reset_and_hazards.md, 10_state.md R37) -/

/-- Every register of the block after reset (R37), and the engine is a freshly constructed one: a FINAL straight after
reset completes with the digest of the empty string in OUT. -/
def Obligations.ResetValues : Prop :=
  State.reset.h = Config.params.iv ∧ State.reset.bufLen = 0 ∧ State.reset.total = 0 ∧ State.reset.phase = .init ∧
  State.reset.out = Vector.replicate 16 0x00 ∧ State.reset.nonce = 0 ∧ State.reset.result = false ∧
  State.reset.err = .ok ∧ State.reset.busy = false ∧
  ∃ t, exec .final State.reset = .next t ∧ t.out = digest Config.params []

/-- Asserting the reset input at any time, BUSY = 1 included, puts every register at its reset value; no result of a
command in progress is kept (R200, R203). -/
def Obligations.AssertedResetClearsEverything : Prop :=
  ∀ (s : State) (rest : List Bool), s.resetIn = true :: rest →
    ∃ t, step s = .next t ∧ t.h = Config.params.iv ∧ t.bufLen = 0 ∧ t.total = 0 ∧ t.phase = .init ∧
      t.out = Vector.replicate 16 0x00 ∧ t.nonce = 0 ∧ t.result = false ∧ t.err = .ok ∧ t.busy = false ∧
      t.search = none

/-! ### Bytes and words (20_memory.md, 00_scope.md R10) -/

/-- ser and deser (R54): byte 4j+m of ser(S) is S[j][8m+7:8m]; word j of deser(B) is LE32 of bytes 4j to 4j+3; each undoes
the other; and the example of R54. -/
def Obligations.SerAndDeserAreInverse : Prop :=
  (∀ (S : Chain) (j : Fin 4) (m : Fin 4),
    (ser S)[4 * j.val + m.val] = S[j.val].extractLsb' (8 * m.val) 8) ∧
  (∀ (B : Hash) (j : Fin 4),
    ((deser B)[j.val]).toNat = (B[4 * j.val]).toNat + 2 ^ 8 * (B[4 * j.val + 1]).toNat +
      2 ^ 16 * (B[4 * j.val + 2]).toNat + 2 ^ 24 * (B[4 * j.val + 3]).toNat) ∧
  (∀ S : Chain, deser (ser S) = S) ∧ (∀ B : Hash, ser (deser B) = B) ∧
  ser #v[0x01234567, 0x89ABCDEF, 0xFEDCBA98, 0x76543210] =
    #v[0x67, 0x45, 0x23, 0x01, 0xef, 0xcd, 0xab, 0x89, 0x98, 0xba, 0xdc, 0xfe, 0x10, 0x32, 0x54, 0x76]

/-- le64 and LE64 (R10): eight bytes, byte k is n[8k+7:8k], and LE64 reads the number back. -/
def Obligations.Le64RoundTrip : Prop :=
  ∀ n : Dword, (le64 n).length = 8 ∧ dword64 (le64 n) = n ∧
    ∀ k : Fin 8, (le64 n)[k.val]? = some (n.extractLsb' (8 * k.val) 8)

/-- rotl by 1 to 31 is the circular left shift of R10, as the sum R10 writes. -/
def Obligations.RotlIsCircularShift : Prop :=
  ∀ (x : Word) (k : Nat), 1 ≤ k → k ≤ 31 →
    (rotl x k).toNat = (x.toNat * 2 ^ k) % 2 ^ 32 + x.toNat / 2 ^ (32 - k)

/-! ### The Compressor (40_compressor.md) -/

/-- The message-word indices are the written-out table of R103, and every round uses every message word exactly once
(R103 marks the table and the permutation as its own inference). -/
def Obligations.WordIndexTable : Prop :=
  steps.map (fun i => (wordIndex 0 i).val) = [0, 1, 2, 3, 4, 5, 6, 7, 8, 9, 10, 11, 12, 13, 14, 15] ∧
  steps.map (fun i => (wordIndex 1 i).val) = [1, 6, 11, 0, 5, 10, 15, 4, 9, 14, 3, 8, 13, 2, 7, 12] ∧
  steps.map (fun i => (wordIndex 2 i).val) = [5, 8, 11, 14, 1, 4, 7, 10, 13, 0, 3, 6, 9, 12, 15, 2] ∧
  steps.map (fun i => (wordIndex 3 i).val) = [0, 7, 14, 5, 12, 3, 10, 1, 8, 15, 6, 13, 4, 11, 2, 9] ∧
  ∀ r : Fin 4, Function.Bijective (wordIndex r)

/-- compress is the loop of R107 read as one run of 64 steps. `F` is the Boolean mixing function of each round (R104), `p`
the message-word index (R103) and `w` the message words of the chunk (R101), each given by its formula: any sequence of
registers that starts with the four state words and takes step n as round n div 16, step n mod 16 of R107 gives the
result by the feed-forward addition. -/
def Obligations.CompressIsSixtyFourSteps : Prop :=
  ∀ (P : Params) (S : Chain) (M : Chunk) (F : Fin 4 → Word → Word → Word → Word) (p : Fin 4 → Fin 16 → Fin 16)
    (w : Fin 16 → Word) (g : Nat → Regs),
    (∀ b c d, F 0 b c d = (b &&& c) ||| (~~~b &&& d)) → (∀ b c d, F 1 b c d = (b &&& d) ||| (c &&& ~~~d)) →
    (∀ b c d, F 2 b c d = b ^^^ c ^^^ d) → (∀ b c d, F 3 b c d = c ^^^ (b ||| ~~~d)) →
    (∀ i, (p 0 i).val = i.val) → (∀ i, (p 1 i).val = (5 * i.val + 1) % 16) →
    (∀ i, (p 2 i).val = (3 * i.val + 5) % 16) → (∀ i, (p 3 i).val = (7 * i.val) % 16) →
    (∀ j : Fin 16, (w j).toNat = (M[4 * j.val]).toNat + 2 ^ 8 * (M[4 * j.val + 1]).toNat +
      2 ^ 16 * (M[4 * j.val + 2]).toNat + 2 ^ 24 * (M[4 * j.val + 3]).toNat) →
    g 0 = ⟨S[0], S[1], S[2], S[3]⟩ →
    (∀ (r : Fin 4) (i : Fin 16), g (16 * r.val + i.val + 1) =
      { a := (g (16 * r.val + i.val)).d
        b := (g (16 * r.val + i.val)).b +
          rotl ((g (16 * r.val + i.val)).a +
              F r (g (16 * r.val + i.val)).b (g (16 * r.val + i.val)).c (g (16 * r.val + i.val)).d +
              w (p r i) + (P.rk[r.val] + BitVec.ofNat 32 i.val))
            ((P.rotLess1[r.val][i.val % 4]'(Nat.mod_lt _ (by decide))).val + 1)
        c := (g (16 * r.val + i.val)).b
        d := (g (16 * r.val + i.val)).c }) →
    compress P S M = #v[S[0] + (g 64).a, S[1] + (g 64).b, S[2] + (g 64).c, S[3] + (g 64).d]

/-- For a fixed chunk every step of the Compressor can be undone: it is a bijection of the register state (an inference
of the spec's: "each step can be undone"). -/
def Obligations.EveryMixingStepIsReversible : Prop :=
  ∀ (P : Params) (M : Chunk) (r : Fin 4) (i : Fin 16), Function.Bijective fun g => mixStep P M r g i

/-- COMPRESS completes in every state (R110): OUT gets ser(compress(deser(st), m)), RESULT and ERR 0, and nothing else of
the block changes. -/
def Obligations.CompressCompletes : Prop :=
  ∀ (st : Hash) (m : Chunk) (s : State), exec (.compress st m) s =
    .next { s with out := ser (compress Config.params (deser st) m), result := false, err := .ok, busy := false,
                   search := none }

/-! ### The Digest Engine (41_digest_engine.md) -/

/-- Split invariance (an inference of the spec's: "the loop over `s ‖ t` is the loop over `s` followed by the loop over
`t`"). -/
def Obligations.AbsorbingInPiecesIsAbsorbingWhole : Prop :=
  ∀ (P : Params) (c : Ctx) (a b : List Byte), absorb P (absorb P c a) b = absorb P c (a ++ b)

/-- The byte-serial absorption and the source's append-then-drain agree (an inference of the spec's): the chunks
compressed are the whole 64-byte chunks of the old buffer followed by the data, the remainder is what is left. -/
def Obligations.AbsorbIsAppendThenDrain : Prop :=
  ∀ (P : Params) (c : Ctx) (data : List Byte), c.buf.length ≤ 63 →
    absorb P c data =
      ⟨chainOver P c.h (c.buf ++ data), remainder (c.buf ++ data), c.total + BitVec.ofNat 64 data.length⟩

/-- Padding lengths (an inference of the spec's): with L bytes buffered the padding starts with 0x80, ends with the
length field, has 55 - L or 119 - L zero bytes between, and completes exactly one chunk if L ≤ 55, else two. -/
def Obligations.PaddingCompletesOneOrTwoChunks : Prop :=
  ∀ (L : Nat) (bl : Dword), L ≤ 63 →
    padding L bl = 0x80 :: (List.replicate (if L ≤ 55 then 55 - L else 119 - L) 0x00 ++ le64 bl) ∧
    L + (padding L bl).length = if L ≤ 55 then 64 else 128

/-- digest in its whole-message form (an inference of the spec's): pad the message, cut it into chunks, fold compress
over them from IV, serialise. The padded message is a whole number of chunks. -/
def Obligations.DigestIsFoldOverPaddedMessage : Prop :=
  ∀ (P : Params) (m : List Byte), m.length < 2 ^ 61 →
    digest P m = ser (chainOver P P.iv (pad m)) ∧ (pad m).length % 64 = 0

/-- INIT completes in every state (R127): a fresh context, PHASE INIT; OUT and NONCE and everything else unchanged. -/
def Obligations.InitCompletes : Prop :=
  ∀ s : State, exec .init s =
    .next { s with h := Config.params.iv, buf := [], total := 0, phase := .init, result := false, err := .ok,
                   busy := false, search := none }

/-- UPDATE completes when the engine is not finalized and the count stays below 2^61 (R128): H is folded over the chunks
that became whole, BUF keeps the rest, TOTAL counts the data, PHASE is ACC; OUT, NONCE and everything else unchanged. -/
def Obligations.UpdateCompletes : Prop :=
  ∀ (data : List Byte) (s : State), s.phase ≠ .fin → s.bufLen ≤ 63 → s.total.toNat + data.length < 2 ^ 61 →
    exec (.update data) s =
      .next { s with h := chainOver Config.params s.h (s.buf ++ data), buf := remainder (s.buf ++ data),
                     total := s.total + BitVec.ofNat 64 data.length, phase := .acc, result := false, err := .ok,
                     busy := false, search := none }

/-- FINAL completes when the engine is not finalized (R129, R124): the buffered bytes, 0x80, the zeros and the bit length
are folded into H, OUT is H serialised, BUFLEN is 0, PHASE is FIN; TOTAL, NONCE and everything else unchanged. -/
def Obligations.FinalCompletes : Prop :=
  ∀ s : State, s.phase ≠ .fin → s.bufLen ≤ 63 → s.total.toNat < 2 ^ 61 →
    ∃ H : Chain,
      H = chainOver Config.params s.h
        (s.buf ++ 0x80 :: (List.replicate (if s.bufLen ≤ 55 then 55 - s.bufLen else 119 - s.bufLen) 0x00 ++
          le64 (BitVec.ofNat 64 (s.total.toNat * 8)))) ∧
      exec .final s =
        .next { s with h := H, buf := [], out := ser H, phase := .fin, result := false, err := .ok, busy := false,
                       search := none }

/-- HASH completes in every phase for data shorter than 2^61 bytes (R130): OUT is the digest of the data, the context is
the finished one of that message, PHASE is FIN; NONCE and everything else unchanged. -/
def Obligations.HashCompletes : Prop :=
  ∀ (data : List Byte) (s : State), data.length < 2 ^ 61 →
    exec (.hash data) s =
      .next { s with h := chainOver Config.params Config.params.iv (pad data), buf := [],
                     total := BitVec.ofNat 64 data.length, phase := .fin,
                     out := ser (chainOver Config.params Config.params.iv (pad data)), result := false, err := .ok,
                     busy := false, search := none }

/-- A streamed digest, INIT, any UPDATEs, FINAL, leaves the block in the very state HASH of the joined pieces leaves it
in, from any state (an inference of the spec's: "leaves in `OUT` the same bytes as `HASH <s1 ‖ … ‖ sk>`"). -/
def Obligations.StreamedDigestIsOneShotDigest : Prop :=
  ∀ (pieces : List (List Byte)) (s : State), pieces.flatten.length < 2 ^ 61 →
    ∃ t, execAll (Pseudo.digestStream pieces).expand s = .next t ∧ exec (.hash pieces.flatten) s = .next t

/-- E_PHASE (R174): UPDATE and FINAL of a finalized engine end with ERR = 3 and RESULT = 0, the context and OUT and
everything else unchanged. -/
def Obligations.FinalizedEngineIsNotReused : Prop :=
  ∀ (s : State) (data : List Byte), s.phase = .fin →
    exec (.update data) s = .next { s with result := false, err := .phase, busy := false, search := none } ∧
    exec .final s = .next { s with result := false, err := .phase, busy := false, search := none }

/-- E_LEN (R176): UPDATE when TOTAL + len(data) ≥ 2^61, HASH and VDIGEST when len(data) ≥ 2^61, MINE and VPOW when
len(data) + 8 ≥ 2^61 (with a legal difficulty) end with ERR = 5 before any absorption; one byte less and none of them
does. -/
def Obligations.TooLongMessageIsRefused : Prop :=
  ∀ (s : State) (data : List Byte) (exp : Hash) (nonce : Dword) (d : Byte),
    (s.phase ≠ .fin → 2 ^ 61 ≤ s.total.toNat + data.length →
      exec (.update data) s = .next { s with result := false, err := .len, busy := false, search := none }) ∧
    (2 ^ 61 ≤ data.length →
      exec (.hash data) s = .next { s with result := false, err := .len, busy := false, search := none } ∧
      exec (.vdigest exp data) s = .next { s with result := false, err := .len, busy := false, search := none }) ∧
    (d.toNat ≤ 128 → 2 ^ 61 ≤ data.length + 8 →
      exec (.mine d data) s = .next { s with result := false, err := .len, busy := false, search := none } ∧
      exec (.vpow d nonce exp data) s = .next { s with result := false, err := .len, busy := false, search := none }) ∧
    ∀ t : State, t.busy = false → t.err = .len →
      (exec (.update data) s = .next t → 2 ^ 61 ≤ s.total.toNat + data.length) ∧
      (exec (.hash data) s = .next t ∨ exec (.vdigest exp data) s = .next t → 2 ^ 61 ≤ data.length) ∧
      (exec (.mine d data) s = .next t ∨ exec (.vpow d nonce exp data) s = .next t → 2 ^ 61 ≤ data.length + 8)

/-! ### Comparison and digest verification (42_digest_verify.md) -/

/-- The comparator's value (an inference of the spec's: "true exactly when `a = b` byte for byte"). -/
def Obligations.ComparatorIsEquality : Prop := ∀ a b : Hash, cteq a b = true ↔ a = b

/-- CTEQ completes in every state (R142): RESULT is 1 exactly when the operands agree; nothing but RESULT and ERR
changes. -/
def Obligations.CteqCompletes : Prop :=
  ∀ (a b : Hash) (s : State), exec (.cteq a b) s =
    .next { s with result := decide (a = b), err := .ok, busy := false, search := none }

/-- VDIGEST completes in every phase for data shorter than 2^61 bytes (R143): RESULT is 1 exactly when the digest of the
data is exp, the context is the finished one of that message, PHASE is FIN; OUT, NONCE and everything else unchanged. -/
def Obligations.VdigestCompletes : Prop :=
  ∀ (exp : Hash) (data : List Byte) (s : State), data.length < 2 ^ 61 →
    exec (.vdigest exp data) s =
      .next { s with h := chainOver Config.params Config.params.iv (pad data), buf := [],
                     total := BitVec.ofNat 64 data.length, phase := .fin,
                     result := decide (ser (chainOver Config.params Config.params.iv (pad data)) = exp), err := .ok,
                     busy := false, search := none }

/-- Round trip (an inference of the spec's: "after `HASH x`, the frame `VDIGEST exp=OUT, x` gives `RESULT = 1`"). -/
def Obligations.DigestRoundTripVerifies : Prop :=
  ∀ (data : List Byte) (s t : State), data.length < 2 ^ 61 → exec (.hash data) s = .next t →
    ∃ u, exec (.vdigest t.out data) t = .next u ∧ u.result = true ∧ u.err = .ok

/-! ### The Proof-of-Work Engine (43_pow_engine.md) -/

/-- lzpred (R150): the first d div 8 bytes are zero and the d mod 8 least-significant bits of the next byte are zero;
with the corner cases d = 0 and d = 128 and the two examples of R150. -/
def Obligations.LeadingZeroPredicateTestsLowBits : Prop :=
  (∀ (h : Hash) (d : Difficulty), lzpred h d = true ↔
    (∀ k : Fin 16, k.val < d.val / 8 → h[k.val] = 0x00) ∧
    (∀ k : Fin 16, k.val = d.val / 8 → ∀ b, b < d.val % 8 → (h[k.val]).getLsbD b = false)) ∧
  (∀ h : Hash, lzpred h 0 = true) ∧
  (∀ h : Hash, lzpred h 128 = true ↔ h = Vector.replicate 16 0x00) ∧
  lzpred #v[0xf0, 0, 0, 0, 0, 0, 0, 0, 0, 0, 0, 0, 0, 0, 0, 0] 4 = true ∧
  lzpred #v[0x0f, 0, 0, 0, 0, 0, 0, 0, 0, 0, 0, 0, 0, 0, 0, 0] 4 = false

/-- Monotonicity (an inference of the spec's): a hash that passes at d passes at every lower difficulty. -/
def Obligations.PredicateIsMonotone : Prop :=
  ∀ (h : Hash) (d d' : Difficulty), d' ≤ d → lzpred h d = true → lzpred h d' = true

/-- LZCHK completes for every legal difficulty (R152): RESULT is lzpred(h, d); nothing but RESULT and ERR changes. -/
def Obligations.LzchkCompletes : Prop :=
  ∀ (b : Byte) (d : Difficulty) (h : Hash) (s : State), b.toNat = d.val →
    exec (.lzchk b h) s = .next { s with result := lzpred h d, err := .ok, busy := false, search := none }

/-- E_DIFF (R175): MINE, VPOW and LZCHK with a difficulty byte above 128 end with ERR = 4 and RESULT = 0; no hashing is
done and nothing else changes. With a difficulty of at most 128, 128 included, none of them ends so. -/
def Obligations.DifficultyAbove128IsRefused : Prop :=
  ∀ (b : Byte) (s : State) (data : List Byte) (nonce : Dword) (h : Hash),
    (128 < b.toNat →
      exec (.mine b data) s = .next { s with result := false, err := .diff, busy := false, search := none } ∧
      exec (.vpow b nonce h data) s = .next { s with result := false, err := .diff, busy := false, search := none } ∧
      exec (.lzchk b h) s = .next { s with result := false, err := .diff, busy := false, search := none }) ∧
    (b.toNat ≤ 128 → ∀ t : State, t.busy = false →
      exec (.mine b data) s = .next t ∨ exec (.vpow b nonce h data) s = .next t ∨ exec (.lzchk b h) s = .next t →
        t.err ≠ .diff)

/-- VPOW completes in every phase for a legal difficulty and data short enough (R158): RESULT is 1 exactly when the
digest of data ‖ le64(nonce) is exp and exp passes the predicate; the context is the finished one of that preimage,
PHASE is FIN; OUT, NONCE and everything else unchanged. -/
def Obligations.VpowCompletes : Prop :=
  ∀ (b : Byte) (d : Difficulty) (nonce : Dword) (exp : Hash) (data : List Byte) (s : State), b.toNat = d.val →
    data.length + 8 < 2 ^ 61 →
    exec (.vpow b nonce exp data) s =
      .next { s with h := chainOver Config.params Config.params.iv (pad (data ++ le64 nonce)), buf := [],
                     total := BitVec.ofNat 64 (data.length + 8), phase := .fin,
                     result := decide (ser (chainOver Config.params Config.params.iv (pad (data ++ le64 nonce))) = exp ∧
                       lzpred exp d = true),
                     err := .ok, busy := false, search := none }

/-- MINE whose first attempt, at nonce 0, passes the predicate completes in its first step (R153; that the step which
accepts the frame makes the first attempt is the MODEL'S CHOICE, log 4): NONCE is 0, OUT is the hash, the
context is the finished one of that attempt, PHASE is FIN; everything else unchanged. With d = 0 it always does. -/
def Obligations.MineCompletesAtNonceZero : Prop :=
  ∀ (b : Byte) (d : Difficulty) (data : List Byte) (s : State), b.toNat = d.val → data.length + 8 < 2 ^ 61 →
    (d.val = 0 ∨ lzpred (powhash Config.params data 0) d = true) →
    exec (.mine b data) s =
      .next { s with nonce := 0, out := ser (chainOver Config.params Config.params.iv (pad (data ++ le64 0))),
                     h := chainOver Config.params Config.params.iv (pad (data ++ le64 0)), buf := [],
                     total := BitVec.ofNat 64 (data.length + 8), phase := .fin, result := false, err := .ok,
                     busy := false, search := none }

/-- MODEL'S CHOICE, log 4 (DESIGN CHOICE; R154 leaves the grain of the steps to the model) and log 12 (DEDUCED): exec of a
MINE makes the first attempt, and where that fails it answers a state with NONCE = 1, BUSY = 1 and the search held, the
context and everything else as before. Stated for all parameters. -/
def Obligations.MineGoesOnAfterFailedFirstAttempt : Prop :=
  ∀ (P : Params) (b : Byte) (d : Difficulty) (data : List Byte) (s : State), b.toNat = d.val →
    data.length + 8 < 2 ^ 61 → lzpred (powhash P data 0) d = false →
    execMineWith P b data s = .next { s with nonce := 1, busy := true, search := some ⟨d, data⟩ }

/-- MODEL'S CHOICE, log 4 (DESIGN CHOICE, which R154 allows): a step of a block with a MINE in progress and the reset input
low is one attempt, and the index of R27 advances when it ends the command. The attempt itself, for all parameters:
success finishes the command, failure at nonce 2^64 - 1 ends it with E_EXHAUST, any other failure counts NONCE up and
leaves everything else, the context and PHASE too (log 12, DEDUCED). -/
def Obligations.BusyStepIsOneAttempt : Prop :=
  (∀ (s u : State) (j : Search), s.sampleReset = (false, u) → u.busy = true → u.search = some j →
    ∃ t, continueSearchWith Config.params u = .next t ∧
      step s = .next (if t.busy then t else { t with pc := t.pc + 1 })) ∧
  ∀ (P : Params) (u : State) (j : Search), u.busy = true → u.search = some j →
    continueSearchWith P u = .next
      (if lzpred (powhash P j.data u.nonce) j.difficulty then
        { u with out := powhash P j.data u.nonce, h := deser (powhash P j.data u.nonce), buf := [],
                 total := BitVec.ofNat 64 (j.data.length + 8), phase := .fin, result := false, err := .ok,
                 busy := false, search := none }
      else if u.nonce.toNat = 2 ^ 64 - 1 then
        { u with h := deser (powhash P j.data u.nonce), buf := [],
                 total := BitVec.ofNat 64 (j.data.length + 8), phase := .fin, result := false, err := .exhaust,
                 busy := false, search := none }
      else { u with nonce := u.nonce + 1 })

/-- E_EXHAUST (R177): the attempt at nonce 2^64 - 1 fails: NONCE stays 2^64 - 1, the context is that of the attempt's
finished hash, PHASE is FIN, OUT is unchanged, RESULT = 0, ERR = 6. Stated for all parameters. -/
def Obligations.ExhaustedSearchEnds : Prop :=
  ∀ (P : Params) (s : State) (j : Search), s.busy = true → s.search = some j → s.nonce.toNat = 2 ^ 64 - 1 →
    lzpred (powhash P j.data s.nonce) j.difficulty = false →
    continueSearchWith P s =
      .next { s with h := deser (powhash P j.data s.nonce), buf := [],
                     total := BitVec.ofNat 64 (j.data.length + 8), phase := .fin, result := false, err := .exhaust,
                     busy := false, search := none }

/-- The function mine (R156): its answer is the least nonce whose hash passes, with that hash; it has none exactly when
no nonce passes. -/
def Obligations.MineFindsTheLeastNonce : Prop :=
  ∀ (P : Params) (data : List Byte) (d : Difficulty),
    (∀ (n : Dword) (h : Hash), mine P data d = some (n, h) ↔
      h = powhash P data n ∧ lzpred h d = true ∧
        ∀ m : Dword, m.toNat < n.toNat → lzpred (powhash P data m) d = false) ∧
    (mine P data d = none ↔ ∀ m : Dword, lzpred (powhash P data m) d = false)

/-- The machine's MINE, attempt by attempt, is the function mine (R153, R154, R156, R177): from an idle block with the
reset input low whose next frame is a MINE, after n + 1 steps the block is idle with the pair (n, h) in NONCE and OUT;
or, when no nonce passes, after 2^64 steps it is idle with ERR = 6. That an attempt is a step and the first one belongs
to the step that takes the frame, and so the two counts of steps, is the MODEL'S CHOICE, log 4. -/
def Obligations.MineRunRefinesMineFunction : Prop :=
  ∀ (s : State) (F : Frame) (rest : List Frame) (b : Byte) (d : Difficulty) (data : List Byte),
    s.resetIn = [] → s.busy = false → s.frames = F :: rest → decode F = .command (.mine b data) →
    b.toNat = d.val → data.length + 8 < 2 ^ 61 →
    match mine Config.params data d with
    | some (n, h) =>
      Host.Core.run Sys2Proof.core (n.toNat + 1) s = .next
        { s with frames := rest, pc := s.pc + 1, nonce := n, out := h, h := deser h, buf := [],
                 total := BitVec.ofNat 64 (data.length + 8), phase := .fin, result := false, err := .ok,
                 busy := false, search := none }
    | none =>
      Host.Core.run Sys2Proof.core (2 ^ 64) s = .next
        { s with frames := rest, pc := s.pc + 1, nonce := BitVec.allOnes 64,
                 h := deser (powhash Config.params data (BitVec.allOnes 64)), buf := [],
                 total := BitVec.ofNat 64 (data.length + 8), phase := .fin, result := false, err := .exhaust,
                 busy := false, search := none }

/-- The measure of R154: every failed attempt that does not end the command counts NONCE up by exactly one, below
2^64 - 1, and keeps the search. Stated for all parameters. -/
def Obligations.EveryFailedAttemptDecreasesTheMeasure : Prop :=
  ∀ (P : Params) (s t : State), s.busy = true → continueSearchWith P s = .next t → t.busy = true →
    s.nonce.toNat < 2 ^ 64 - 1 ∧ t.nonce.toNat = s.nonce.toNat + 1 ∧ t.search = s.search

/-- powverify (R157): both checks are required. -/
def Obligations.PowVerifyNeedsBothChecks : Prop :=
  ∀ (P : Params) (data : List Byte) (n : Dword) (d : Difficulty) (exp : Hash),
    powverify P data n d exp = true ↔ powhash P data n = exp ∧ lzpred exp d = true

/-- PoW soundness (an inference of the spec's): VPOW of the pair mine returns gives RESULT = 1. -/
def Obligations.MinedPairVerifies : Prop :=
  ∀ (s : State) (b : Byte) (d : Difficulty) (data : List Byte) (n : Dword) (h : Hash), b.toNat = d.val →
    data.length + 8 < 2 ^ 61 → mine Config.params data d = some (n, h) →
    ∃ t, exec (.vpow b n h data) s = .next t ∧ t.result = true ∧ t.err = .ok

/-! ### All commands (10_state.md R24 to R33, 60_exceptions.md) -/

/-- raise (R171): a command that ends with an error in its first step, which E_EXHAUST cannot be, changes nothing but
ERR, RESULT = 0 and BUSY = 0. -/
def Obligations.ErrorsChangeOnlyStatus : Prop :=
  ∀ (i : Instr) (s t : State), exec i s = .next t → t.busy = false → t.err ≠ .ok →
    t = { s with result := false, err := t.err, busy := false, search := none }

/-- The errors each command can raise (R178, the table). -/
def Obligations.ErrorsOfEachCommand : Prop :=
  ∀ (i : Instr) (s t : State), exec i s = .next t → t.busy = false →
    t.err ∈ (match i.opcode with
      | .init => [ErrCode.ok]
      | .update => [.ok, .phase, .len]
      | .final => [.ok, .phase]
      | .hash => [.ok, .len]
      | .vdigest => [.ok, .len]
      | .mine => [.ok, .diff, .len, .exhaust]
      | .vpow => [.ok, .diff, .len]
      | .compress => [.ok]
      | .cteq => [.ok]
      | .lzchk => [.ok, .diff])

/-- RESULT = 1 only after a VDIGEST, VPOW, CTEQ or LZCHK that completed without error (R29). -/
def Obligations.ResultOnlyFromVerifyCommands : Prop :=
  ∀ (i : Instr) (s t : State), exec i s = .next t → t.busy = false → t.result = true →
    t.err = .ok ∧ (i.opcode = .vdigest ∨ i.opcode = .vpow ∨ i.opcode = .cteq ∨ i.opcode = .lzchk)

/-- OUT is written only by a successful FINAL, HASH, MINE or COMPRESS (R25), NONCE only by MINE (R26), and no command
touches the host's lists or the index of R27. -/
def Obligations.OutAndNonceWriters : Prop :=
  ∀ (i : Instr) (s t : State), exec i s = .next t →
    (t.out ≠ s.out → t.err = .ok ∧
      (i.opcode = .final ∨ i.opcode = .hash ∨ i.opcode = .mine ∨ i.opcode = .compress)) ∧
    (t.nonce ≠ s.nonce → i.opcode = .mine) ∧
    t.frames = s.frames ∧ t.pc = s.pc ∧ t.resetIn = s.resetIn

/-- The transitions of PHASE (R24, the table), for every command that ends in its first step; the later steps of a MINE
are in BusyStepIsOneAttempt. -/
def Obligations.PhaseTransitions : Prop :=
  ∀ (i : Instr) (s t : State), exec i s = .next t → t.busy = false →
    (t.err = .ok → t.phase =
      match i.opcode with
      | .init => .init
      | .update => .acc
      | .final | .hash | .vdigest | .mine | .vpow => .fin
      | .compress | .cteq | .lzchk => s.phase) ∧
    (t.err ≠ .ok → t.phase = s.phase)

/-- No hidden state (R33): what a one-shot or pure command or INIT answers depends on its operands only: started in any
two states, it ends in both or goes on in both, with the same RESULT and ERR; where it ends without error, HASH, MINE
and COMPRESS leave the same OUT, and HASH, VDIGEST, VPOW, MINE and INIT the same context and PHASE. MINE with legal
operands leaves the same NONCE, whether it ends or goes on. -/
def Obligations.OneShotCommandsForgetHistory : Prop :=
  ∀ (i : Instr) (s₁ s₂ t₁ t₂ : State), i.opcode ≠ .update → i.opcode ≠ .final →
    exec i s₁ = .next t₁ → exec i s₂ = .next t₂ →
    t₁.search = t₂.search ∧ t₁.busy = t₂.busy ∧
    (i.opcode = .mine → i.wellFormed = true → t₁.nonce = t₂.nonce) ∧
    (t₁.busy = false → t₁.result = t₂.result ∧ t₁.err = t₂.err ∧
      (t₁.err = .ok →
        ((i.opcode = .hash ∨ i.opcode = .mine ∨ i.opcode = .compress) → t₁.out = t₂.out) ∧
        (i.opcode ≠ .compress → i.opcode ≠ .cteq → i.opcode ≠ .lzchk → t₁.ctx = t₂.ctx ∧ t₁.phase = t₂.phase)))

/-- A command with an illegal operand value (R75, R80) or too much data (R176) has no effect but its error. -/
def Obligations.IllFormedCommandIsRefused : Prop :=
  ∀ (i : Instr) (s : State), i.wellFormed = false →
    ∃ e, (e = ErrCode.phase ∨ e = .diff ∨ e = .len) ∧
      exec i s = .next { s with result := false, err := e, busy := false, search := none }

/-- The fields of STATUS (R28): BUSY bit 0, PHASE bits 2:1 and never 3, RESULT bit 3, ERR bits 7:4 and at most 6; the
codes of PHASE (R24) and of ERR (R170, the table); and STATUS is 0 after reset. -/
def Obligations.StatusFields : Prop :=
  (∀ s : State, s.status.getLsbD 0 = s.busy ∧ s.status.extractLsb' 1 2 = s.phase.code ∧
    s.status.getLsbD 3 = s.result ∧ s.status.extractLsb' 4 4 = s.err.code ∧
    (s.status.extractLsb' 1 2).toNat ≠ 3 ∧ (s.status.extractLsb' 4 4).toNat ≤ 6) ∧
  (Phase.init.code.toNat = 0 ∧ Phase.acc.code.toNat = 1 ∧ Phase.fin.code.toNat = 2) ∧
  (ErrCode.ok.code.toNat = 0 ∧ ErrCode.illop.code.toNat = 1 ∧ ErrCode.frame.code.toNat = 2 ∧
    ErrCode.phase.code.toNat = 3 ∧ ErrCode.diff.code.toNat = 4 ∧ ErrCode.len.code.toNat = 5 ∧
    ErrCode.exhaust.code.toNat = 6) ∧
  State.reset.status = 0x00

/-- The OUT port shows OUT[k] at bits 8k+7:8k (R25). MODEL'S CHOICE, log 9: while BUSY = 1 the host has no read of
STATUS, OUT and NONCE; BUSY itself it may always read (R31). -/
def Obligations.OutputPorts : Prop :=
  ∀ s : State, (∀ k : Fin 16, s.outPort.extractLsb' (8 * k.val) 8 = s.out[k.val]) ∧ s.readBusy = s.busy ∧
    (s.busy = true → s.readStatus = none ∧ s.readOut = none ∧ s.readNonce = none) ∧
    (s.busy = false → s.readStatus = some s.status ∧ s.readOut = some s.outPort ∧ s.readNonce = some s.nonce)

/-! ### The invariant (10_state.md R36) and safety -/

/-- The invariant holds after reset. -/
def Obligations.ResetSatisfiesInvariant : Prop := State.reset.Inv

/-- Every step keeps the invariant: all of R36 whenever BUSY = 0 (an inference of the spec's: "`H` is the fold of
`compress` over the first `TOTAL div 64` chunks of the submitted bytes"), from every state that has it. -/
def Obligations.EveryStepKeepsInvariant : Prop := ∀ s t : State, s.Inv → step s = .next t → t.Inv

/-- The index of R27 advances by exactly 1 when a command ends, with or without an error, and not otherwise: a step that
takes a frame or goes on with a MINE advances it exactly when BUSY is 0 after it. -/
def Obligations.IndexAdvancesByOne : Prop :=
  ∀ s u t : State, s.sampleReset = (false, u) → step s = .next t → (u.busy = true ∨ u.frames ≠ []) →
    t.pc = if t.busy then s.pc else s.pc + 1

/-- No state with the invariant stops: no step of it faults or refuses, so every run from it goes on for ever, whatever
frames the host presents and whenever reset is asserted. -/
def Obligations.EveryRunIsSafe : Prop := ∀ s : State, s.Inv → SafeRun s
end

