-- ==== Sys2Proof/Laws/Bytes.lean ====
section
/-! SUPPORT. Laws/Bytes.lean: lengths and contents of the byte-string helpers. -/

namespace Sys2Proof.Machine

@[simp] theorem le32_length (w : Word) : (le32 w).length = 4 := rfl
@[simp] theorem le64_length (n : Dword) : (le64 n).length = 8 := rfl
@[simp] theorem leNat_nil : leNat [] = 0 := rfl
@[simp] theorem leNat_cons (b : Byte) (bs : List Byte) : leNat (b :: bs) = b.toNat + 256 * leNat bs := rfl

/-- The zero filler of `toVec` is not reached on a string of the vector's length. -/
theorem toVec_toList {n : Nat} {l : List Byte} (h : l.length = n) : (toVec n l).toList = l := by
  subst h
  simp [toVec, Vector.toList, List.takeD_eq_take]

/-- Reading a vector's own bytes back gives the vector. -/
@[simp] theorem toVec_vector_toList {n : Nat} (v : Vector Byte n) : toVec n v.toList = v := by
  apply Vector.toList_inj.mp
  exact toVec_toList (by simp)

/-- Byte k of `toVec` on a string long enough to hold it. -/
theorem toVec_getElem {n : Nat} {l : List Byte} (h : l.length = n) (k : Nat) (hk : k < n) :
    (toVec n l)[k] = l[k] := by
  have := toVec_toList h
  have e := Vector.getElem_toList (xs := toVec n l) (i := k) (by simpa using hk)
  rw [← e]
  simp only [this]

theorem slice_length (F : List Byte) (i j : Nat) : (slice F i j).length = min (j - i) (F.length - i) := by
  simp [slice]

@[simp] theorem bytesOfNat_length (w n : Nat) : (bytesOfNat w n).length = n := by
  induction n generalizing w with
  | zero => rfl
  | succ n ih => simp [bytesOfNat, ih]

/-- `LE32` as the sum R10 writes (00_scope.md). -/
theorem word32_toNat (b0 b1 b2 b3 : Byte) :
    (word32 b0 b1 b2 b3).toNat = b0.toNat + 2 ^ 8 * b1.toNat + 2 ^ 16 * b2.toNat + 2 ^ 24 * b3.toNat := by
  have h0 := b0.isLt
  have h1 := b1.isLt
  have h2 := b2.isLt
  simp only [word32, BitVec.toNat_append]
  rw [Nat.shiftLeft_eq, ← Nat.shiftLeft_eq, ← Nat.shiftLeft_add_eq_or_of_lt (by omega),
    ← Nat.shiftLeft_add_eq_or_of_lt (by omega), ← Nat.shiftLeft_add_eq_or_of_lt (by omega)]
  simp only [Nat.shiftLeft_eq]
  omega

end Sys2Proof.Machine
end

