-- ==== Sys2Proof/Laws/Compressor.lean ====
section
/-! SUPPORT. Laws/Compressor.lean: a round of the Compressor along a sequence of register values. -/

namespace Sys2Proof.Machine

/-- A rotation amount is in 1..31 (40_compressor.md R106): it is never 0 and never the word width. -/
theorem rotAmount_bounds (P : Params) (r : Fin 4) (i : Fin 16) : 1 ≤ rotAmount P r i ∧ rotAmount P r i ≤ 31 := by
  unfold rotAmount; omega

/-- If each step of round r leads from one member of a sequence to the next, the round leads sixteen members on. -/
theorem mixRound_of_steps {P : Params} {M : Chunk} {r : Fin 4} (g : Nat → Regs) (n : Nat)
    (h : ∀ i : Fin 16, mixStep P M r (g (n + i.val)) i = g (n + i.val + 1)) :
    mixRound P M (g n) r = g (n + 16) := by
  have h0 := h 0; have h1 := h 1; have h2 := h 2; have h3 := h 3; have h4 := h 4; have h5 := h 5
  have h6 := h 6; have h7 := h 7; have h8 := h 8; have h9 := h 9; have h10 := h 10; have h11 := h 11
  have h12 := h 12; have h13 := h 13; have h14 := h 14; have h15 := h 15
  simp only [mixRound, steps, List.foldl_cons, List.foldl_nil]
  simp at h0 h1 h2 h3 h4 h5 h6 h7 h8 h9 h10 h11 h12 h13 h14 h15
  rw [h0, h1, h2, h3, h4, h5, h6, h7, h8, h9, h10, h11, h12, h13, h14, h15]

end Sys2Proof.Machine
end

