-- ==== Sys2Proof/Laws/State.lean ====
section
/-! SUPPORT. Laws/State.lean: what each update of State does to each field, so that no proof unfolds a record update. -/

namespace Sys2Proof.Machine

@[simp] theorem State.setCtx_h (s : State) (c : Ctx) : (s.setCtx c).h = c.h := rfl
@[simp] theorem State.setCtx_buf (s : State) (c : Ctx) : (s.setCtx c).buf = c.buf := rfl
@[simp] theorem State.setCtx_total (s : State) (c : Ctx) : (s.setCtx c).total = c.total := rfl
@[simp] theorem State.setCtx_phase (s : State) (c : Ctx) : (s.setCtx c).phase = s.phase := rfl
@[simp] theorem State.setCtx_out (s : State) (c : Ctx) : (s.setCtx c).out = s.out := rfl
@[simp] theorem State.setCtx_nonce (s : State) (c : Ctx) : (s.setCtx c).nonce = s.nonce := rfl
@[simp] theorem State.setCtx_result (s : State) (c : Ctx) : (s.setCtx c).result = s.result := rfl
@[simp] theorem State.setCtx_err (s : State) (c : Ctx) : (s.setCtx c).err = s.err := rfl
@[simp] theorem State.setCtx_busy (s : State) (c : Ctx) : (s.setCtx c).busy = s.busy := rfl
@[simp] theorem State.setCtx_search (s : State) (c : Ctx) : (s.setCtx c).search = s.search := rfl
@[simp] theorem State.setCtx_frames (s : State) (c : Ctx) : (s.setCtx c).frames = s.frames := rfl
@[simp] theorem State.setCtx_pc (s : State) (c : Ctx) : (s.setCtx c).pc = s.pc := rfl
@[simp] theorem State.setCtx_resetIn (s : State) (c : Ctx) : (s.setCtx c).resetIn = s.resetIn := rfl

@[simp] theorem State.setPhase_h (s : State) (p : Phase) : (s.setPhase p).h = s.h := rfl
@[simp] theorem State.setPhase_buf (s : State) (p : Phase) : (s.setPhase p).buf = s.buf := rfl
@[simp] theorem State.setPhase_total (s : State) (p : Phase) : (s.setPhase p).total = s.total := rfl
@[simp] theorem State.setPhase_phase (s : State) (p : Phase) : (s.setPhase p).phase = p := rfl
@[simp] theorem State.setPhase_out (s : State) (p : Phase) : (s.setPhase p).out = s.out := rfl
@[simp] theorem State.setPhase_nonce (s : State) (p : Phase) : (s.setPhase p).nonce = s.nonce := rfl
@[simp] theorem State.setPhase_result (s : State) (p : Phase) : (s.setPhase p).result = s.result := rfl
@[simp] theorem State.setPhase_err (s : State) (p : Phase) : (s.setPhase p).err = s.err := rfl
@[simp] theorem State.setPhase_busy (s : State) (p : Phase) : (s.setPhase p).busy = s.busy := rfl
@[simp] theorem State.setPhase_search (s : State) (p : Phase) : (s.setPhase p).search = s.search := rfl
@[simp] theorem State.setPhase_frames (s : State) (p : Phase) : (s.setPhase p).frames = s.frames := rfl
@[simp] theorem State.setPhase_pc (s : State) (p : Phase) : (s.setPhase p).pc = s.pc := rfl
@[simp] theorem State.setPhase_resetIn (s : State) (p : Phase) : (s.setPhase p).resetIn = s.resetIn := rfl

@[simp] theorem State.setOut_h (s : State) (o : Hash) : (s.setOut o).h = s.h := rfl
@[simp] theorem State.setOut_buf (s : State) (o : Hash) : (s.setOut o).buf = s.buf := rfl
@[simp] theorem State.setOut_total (s : State) (o : Hash) : (s.setOut o).total = s.total := rfl
@[simp] theorem State.setOut_phase (s : State) (o : Hash) : (s.setOut o).phase = s.phase := rfl
@[simp] theorem State.setOut_out (s : State) (o : Hash) : (s.setOut o).out = o := rfl
@[simp] theorem State.setOut_nonce (s : State) (o : Hash) : (s.setOut o).nonce = s.nonce := rfl
@[simp] theorem State.setOut_result (s : State) (o : Hash) : (s.setOut o).result = s.result := rfl
@[simp] theorem State.setOut_err (s : State) (o : Hash) : (s.setOut o).err = s.err := rfl
@[simp] theorem State.setOut_busy (s : State) (o : Hash) : (s.setOut o).busy = s.busy := rfl
@[simp] theorem State.setOut_search (s : State) (o : Hash) : (s.setOut o).search = s.search := rfl
@[simp] theorem State.setOut_frames (s : State) (o : Hash) : (s.setOut o).frames = s.frames := rfl
@[simp] theorem State.setOut_pc (s : State) (o : Hash) : (s.setOut o).pc = s.pc := rfl
@[simp] theorem State.setOut_resetIn (s : State) (o : Hash) : (s.setOut o).resetIn = s.resetIn := rfl

@[simp] theorem State.accept_h (s : State) : (s.accept).h = s.h := rfl
@[simp] theorem State.accept_buf (s : State) : (s.accept).buf = s.buf := rfl
@[simp] theorem State.accept_total (s : State) : (s.accept).total = s.total := rfl
@[simp] theorem State.accept_phase (s : State) : (s.accept).phase = s.phase := rfl
@[simp] theorem State.accept_out (s : State) : (s.accept).out = s.out := rfl
@[simp] theorem State.accept_nonce (s : State) : (s.accept).nonce = s.nonce := rfl
@[simp] theorem State.accept_result (s : State) : (s.accept).result = s.result := rfl
@[simp] theorem State.accept_err (s : State) : (s.accept).err = s.err := rfl
@[simp] theorem State.accept_busy (s : State) : (s.accept).busy = true := rfl
@[simp] theorem State.accept_search (s : State) : (s.accept).search = s.search := rfl
@[simp] theorem State.accept_frames (s : State) : (s.accept).frames = s.frames := rfl
@[simp] theorem State.accept_pc (s : State) : (s.accept).pc = s.pc := rfl
@[simp] theorem State.accept_resetIn (s : State) : (s.accept).resetIn = s.resetIn := rfl

@[simp] theorem State.complete_h (s : State) (v : Bool) : (s.complete v).h = s.h := rfl
@[simp] theorem State.complete_buf (s : State) (v : Bool) : (s.complete v).buf = s.buf := rfl
@[simp] theorem State.complete_total (s : State) (v : Bool) : (s.complete v).total = s.total := rfl
@[simp] theorem State.complete_phase (s : State) (v : Bool) : (s.complete v).phase = s.phase := rfl
@[simp] theorem State.complete_out (s : State) (v : Bool) : (s.complete v).out = s.out := rfl
@[simp] theorem State.complete_nonce (s : State) (v : Bool) : (s.complete v).nonce = s.nonce := rfl
@[simp] theorem State.complete_result (s : State) (v : Bool) : (s.complete v).result = v := rfl
@[simp] theorem State.complete_err (s : State) (v : Bool) : (s.complete v).err = .ok := rfl
@[simp] theorem State.complete_busy (s : State) (v : Bool) : (s.complete v).busy = false := rfl
@[simp] theorem State.complete_search (s : State) (v : Bool) : (s.complete v).search = none := rfl
@[simp] theorem State.complete_frames (s : State) (v : Bool) : (s.complete v).frames = s.frames := rfl
@[simp] theorem State.complete_pc (s : State) (v : Bool) : (s.complete v).pc = s.pc := rfl
@[simp] theorem State.complete_resetIn (s : State) (v : Bool) : (s.complete v).resetIn = s.resetIn := rfl

@[simp] theorem State.raise_h (s : State) (e : ErrCode) : (s.raise e).h = s.h := rfl
@[simp] theorem State.raise_buf (s : State) (e : ErrCode) : (s.raise e).buf = s.buf := rfl
@[simp] theorem State.raise_total (s : State) (e : ErrCode) : (s.raise e).total = s.total := rfl
@[simp] theorem State.raise_phase (s : State) (e : ErrCode) : (s.raise e).phase = s.phase := rfl
@[simp] theorem State.raise_out (s : State) (e : ErrCode) : (s.raise e).out = s.out := rfl
@[simp] theorem State.raise_nonce (s : State) (e : ErrCode) : (s.raise e).nonce = s.nonce := rfl
@[simp] theorem State.raise_result (s : State) (e : ErrCode) : (s.raise e).result = false := rfl
@[simp] theorem State.raise_err (s : State) (e : ErrCode) : (s.raise e).err = e := rfl
@[simp] theorem State.raise_busy (s : State) (e : ErrCode) : (s.raise e).busy = false := rfl
@[simp] theorem State.raise_search (s : State) (e : ErrCode) : (s.raise e).search = none := rfl
@[simp] theorem State.raise_frames (s : State) (e : ErrCode) : (s.raise e).frames = s.frames := rfl
@[simp] theorem State.raise_pc (s : State) (e : ErrCode) : (s.raise e).pc = s.pc := rfl
@[simp] theorem State.raise_resetIn (s : State) (e : ErrCode) : (s.raise e).resetIn = s.resetIn := rfl

@[simp] theorem State.presentNext_h (s : State) (F : Frame) : (s.presentNext F).h = s.h := rfl
@[simp] theorem State.presentNext_buf (s : State) (F : Frame) : (s.presentNext F).buf = s.buf := rfl
@[simp] theorem State.presentNext_total (s : State) (F : Frame) : (s.presentNext F).total = s.total := rfl
@[simp] theorem State.presentNext_phase (s : State) (F : Frame) : (s.presentNext F).phase = s.phase := rfl
@[simp] theorem State.presentNext_out (s : State) (F : Frame) : (s.presentNext F).out = s.out := rfl
@[simp] theorem State.presentNext_nonce (s : State) (F : Frame) : (s.presentNext F).nonce = s.nonce := rfl
@[simp] theorem State.presentNext_result (s : State) (F : Frame) : (s.presentNext F).result = s.result := rfl
@[simp] theorem State.presentNext_err (s : State) (F : Frame) : (s.presentNext F).err = s.err := rfl
@[simp] theorem State.presentNext_busy (s : State) (F : Frame) : (s.presentNext F).busy = false := rfl
@[simp] theorem State.presentNext_search (s : State) (F : Frame) : (s.presentNext F).search = none := rfl
@[simp] theorem State.presentNext_frames (s : State) (F : Frame) : (s.presentNext F).frames = F :: s.frames := rfl
@[simp] theorem State.presentNext_pc (s : State) (F : Frame) : (s.presentNext F).pc = s.pc := rfl
@[simp] theorem State.presentNext_resetIn (s : State) (F : Frame) : (s.presentNext F).resetIn = lineLow s.resetIn := rfl

@[simp] theorem State.assertReset_h (P : Params) (s : State) : (s.assertReset P).h = P.iv := rfl
@[simp] theorem State.assertReset_buf (P : Params) (s : State) : (s.assertReset P).buf = [] := rfl
@[simp] theorem State.assertReset_total (P : Params) (s : State) : (s.assertReset P).total = 0 := rfl
@[simp] theorem State.assertReset_phase (P : Params) (s : State) : (s.assertReset P).phase = .init := rfl
@[simp] theorem State.assertReset_out (P : Params) (s : State) : (s.assertReset P).out = Vector.replicate 16 0 := rfl
@[simp] theorem State.assertReset_nonce (P : Params) (s : State) : (s.assertReset P).nonce = 0 := rfl
@[simp] theorem State.assertReset_result (P : Params) (s : State) : (s.assertReset P).result = false := rfl
@[simp] theorem State.assertReset_err (P : Params) (s : State) : (s.assertReset P).err = .ok := rfl
@[simp] theorem State.assertReset_busy (P : Params) (s : State) : (s.assertReset P).busy = false := rfl
@[simp] theorem State.assertReset_search (P : Params) (s : State) : (s.assertReset P).search = none := rfl
@[simp] theorem State.assertReset_frames (P : Params) (s : State) : (s.assertReset P).frames = s.frames := rfl
@[simp] theorem State.assertReset_pc (P : Params) (s : State) : (s.assertReset P).pc = if s.busy then s.pc + 1 else s.pc := rfl
@[simp] theorem State.assertReset_resetIn (P : Params) (s : State) : (s.assertReset P).resetIn = s.resetIn := rfl

@[simp] theorem State.retire_h (s : State) : s.retire.h = s.h := by unfold State.retire; split <;> rfl
@[simp] theorem State.retire_buf (s : State) : s.retire.buf = s.buf := by unfold State.retire; split <;> rfl
@[simp] theorem State.retire_total (s : State) : s.retire.total = s.total := by unfold State.retire; split <;> rfl
@[simp] theorem State.retire_phase (s : State) : s.retire.phase = s.phase := by unfold State.retire; split <;> rfl
@[simp] theorem State.retire_out (s : State) : s.retire.out = s.out := by unfold State.retire; split <;> rfl
@[simp] theorem State.retire_nonce (s : State) : s.retire.nonce = s.nonce := by unfold State.retire; split <;> rfl
@[simp] theorem State.retire_result (s : State) : s.retire.result = s.result := by unfold State.retire; split <;> rfl
@[simp] theorem State.retire_err (s : State) : s.retire.err = s.err := by unfold State.retire; split <;> rfl
@[simp] theorem State.retire_busy (s : State) : s.retire.busy = s.busy := by unfold State.retire; split <;> rfl
@[simp] theorem State.retire_search (s : State) : s.retire.search = s.search := by unfold State.retire; split <;> rfl
@[simp] theorem State.retire_frames (s : State) : s.retire.frames = s.frames := by unfold State.retire; split <;> rfl
@[simp] theorem State.retire_resetIn (s : State) : s.retire.resetIn = s.resetIn := by unfold State.retire; split <;> rfl
@[simp] theorem State.retire_pc (s : State) : s.retire.pc = if s.busy then s.pc else s.pc + 1 := by
  unfold State.retire; split <;> rfl

@[simp] theorem State.ctx_h (s : State) : s.ctx.h = s.h := rfl
@[simp] theorem State.ctx_buf (s : State) : s.ctx.buf = s.buf := rfl
@[simp] theorem State.ctx_total (s : State) : s.ctx.total = s.total := rfl
@[simp] theorem State.bufLen_eq (s : State) : s.bufLen = s.buf.length := rfl
@[simp] theorem State.setCtx_ctx (s : State) (c : Ctx) : (s.setCtx c).ctx = c := rfl
@[simp] theorem State.setCtx_self (s : State) : s.setCtx s.ctx = s := rfl

@[simp] theorem retireOutcome_next (t : State) : retireOutcome (.next t) = .next t.retire := rfl
@[simp] theorem retireOutcome_fault (f : Fault) : retireOutcome (.fault f) = .fault f := rfl
@[simp] theorem retireOutcome_refused (r : Refusal) : retireOutcome (.refused r) = .refused r := rfl

/-- What sampling the reset line answers: the level of its head, low when it has ended. -/
theorem State.sampleReset_cases (s : State) :
    (s.resetIn = [] ∧ s.sampleReset = (false, s)) ∨
      ∃ level rest, s.resetIn = level :: rest ∧ s.sampleReset = (level, { s with resetIn := rest }) := by
  unfold State.sampleReset
  split
  · exact .inl ⟨‹_›, rfl⟩
  · exact .inr ⟨_, _, ‹_›, rfl⟩

end Sys2Proof.Machine
end

