-- ==== Sys2Proof/Laws/Engine.lean ====
section
/-! SUPPORT. Laws/Engine.lean: what the operations of the Digest Engine do to the context, so that callers cite a lemma
and do not unfold them. -/

namespace Sys2Proof.Machine

@[simp] theorem absorb_nil (P : Params) (c : Ctx) : absorb P c [] = c := rfl
@[simp] theorem absorb_cons (P : Params) (c : Ctx) (x : Byte) (s : List Byte) :
    absorb P c (x :: s) = absorb P (absorbByte P c x) s := rfl

@[simp] theorem fresh_h (P : Params) : (fresh P).h = P.iv := rfl
@[simp] theorem fresh_buf (P : Params) : (fresh P).buf = [] := rfl
@[simp] theorem fresh_total (P : Params) : (fresh P).total = 0 := rfl

@[simp] theorem absorbByte_total (P : Params) (c : Ctx) (x : Byte) : (absorbByte P c x).total = c.total + 1 := by
  unfold absorbByte; dsimp only; split <;> rfl

/-- Absorbing one byte: it fills BUF and compresses, or it is appended (R121). -/
theorem absorbByte_cases (P : Params) (c : Ctx) (x : Byte) :
    (c.buf.length = 63 ∧
        absorbByte P c x = ⟨compress P c.h (toVec 64 (c.buf ++ [x])), [], c.total + 1⟩) ∨
      (c.buf.length ≠ 63 ∧ absorbByte P c x = ⟨c.h, c.buf ++ [x], c.total + 1⟩) := by
  unfold absorbByte
  by_cases h : c.buf.length = 63
  · exact .inl ⟨h, by simp [h]⟩
  · exact .inr ⟨h, by simp [h]⟩

/-- BUFLEN stays below 64 (R121). -/
theorem absorb_buf_length_le (P : Params) (c : Ctx) (s : List Byte) (h : c.buf.length ≤ 63) :
    (absorb P c s).buf.length ≤ 63 := by
  induction s generalizing c with
  | nil => exact h
  | cons x s ih =>
    apply ih
    obtain ⟨_, e⟩ | ⟨hne, e⟩ := absorbByte_cases P c x
    · simp [e]
    · simp [e]; omega

/-- TOTAL counts every byte absorbed (R121, R23). -/
theorem absorb_total (P : Params) (c : Ctx) (s : List Byte) :
    (absorb P c s).total = c.total + BitVec.ofNat 64 s.length := by
  induction s generalizing c with
  | nil => simp
  | cons x s ih =>
    rw [absorb_cons, ih, absorbByte_total]
    simp only [List.length_cons, BitVec.add_assoc]
    congr 1
    apply BitVec.eq_of_toNat_eq
    simp [Nat.add_comm]

@[simp] theorem finish_buf (P : Params) (c : Ctx) : (finish P c).buf = [] := rfl
@[simp] theorem finish_total (P : Params) (c : Ctx) : (finish P c).total = c.total := rfl

theorem finishHash_eq (P : Params) (c : Ctx) : finishHash P c = ser (finish P c).h := rfl

theorem digest_eq (P : Params) (s : List Byte) : digest P s = ser (finish P (absorb P (fresh P) s)).h := rfl

theorem powhash_preimage_length (data : List Byte) (n : Dword) : (data ++ le64 n).length = data.length + 8 := by simp

@[simp] theorem padding_length (L : Nat) (bl : Dword) : (padding L bl).length = padZeros L + 9 := by
  simp [padding]

theorem tooLong_eq_true {before n : Nat} : tooLong before n = true ↔ 2 ^ 61 ≤ before + n := by simp [tooLong]

theorem tooLong_eq_false {before n : Nat} : tooLong before n = false ↔ before + n < 2 ^ 61 := by simp [tooLong]

theorem lt_of_not_tooLong {before n : Nat} (h : ¬ tooLong before n = true) : before + n < 2 ^ 61 :=
  tooLong_eq_false.mp (Bool.eq_false_iff.mpr h)

end Sys2Proof.Machine
end

