-- ==== Sys2Proof/Laws/Exec.lean ====
section
/-! SUPPORT. Laws/Exec.lean: for each command one lemma that says once everything it can do, and the same for one
attempt of MINE and for one step. -/

namespace Sys2Proof.Machine

theorem difficulty?_cases (d : Byte) :
    (∃ h : d.toNat ≤ 128, difficulty? d = some ⟨d.toNat, by omega⟩) ∨ (128 < d.toNat ∧ difficulty? d = none) := by
  by_cases h : d.toNat ≤ 128
  · exact .inl ⟨h, by simp [difficulty?, h]⟩
  · exact .inr ⟨by omega, by simp [difficulty?, h]⟩

theorem execInitWith_eq (P : Params) (s : State) :
    execInitWith P s = .next (((s.setCtx (fresh P)).setPhase .init).complete false) := rfl

theorem execUpdateWith_cases (P : Params) (data : List Byte) (s : State) :
    (s.phase = .fin ∧ execUpdateWith P data s = .next (s.raise .phase)) ∨
      (s.phase ≠ .fin ∧ 2 ^ 61 ≤ s.total.toNat + data.length ∧ execUpdateWith P data s = .next (s.raise .len)) ∨
      (s.phase ≠ .fin ∧ s.total.toNat + data.length < 2 ^ 61 ∧
        execUpdateWith P data s = .next (((s.setCtx (absorb P s.ctx data)).setPhase .acc).complete false)) := by
  unfold execUpdateWith
  split
  · exact .inl ⟨‹_›, rfl⟩
  · split
    · exact .inr (.inl ⟨‹_›, tooLong_eq_true.mp ‹_›, rfl⟩)
    · exact .inr (.inr ⟨‹_›, lt_of_not_tooLong ‹_›, rfl⟩)

theorem execFinalWith_cases (P : Params) (s : State) :
    (s.phase = .fin ∧ execFinalWith P s = .next (s.raise .phase)) ∨
      (s.phase ≠ .fin ∧ execFinalWith P s =
        .next ((((s.setCtx (finish P s.ctx)).setOut (finishHash P s.ctx)).setPhase .fin).complete false)) := by
  unfold execFinalWith
  split
  · exact .inl ⟨‹_›, rfl⟩
  · exact .inr ⟨‹_›, rfl⟩

theorem execHashWith_cases (P : Params) (data : List Byte) (s : State) :
    (2 ^ 61 ≤ data.length ∧ execHashWith P data s = .next (s.raise .len)) ∨
      (data.length < 2 ^ 61 ∧ execHashWith P data s =
        .next ((((s.setCtx (finish P (absorb P (fresh P) data))).setOut (digest P data)).setPhase .fin).complete
          false)) := by
  unfold execHashWith
  split
  · exact .inl ⟨by have := tooLong_eq_true.mp ‹_›; omega, rfl⟩
  · exact .inr ⟨by have := lt_of_not_tooLong ‹_›; omega, rfl⟩

theorem execVdigestWith_cases (P : Params) (exp : Hash) (data : List Byte) (s : State) :
    (2 ^ 61 ≤ data.length ∧ execVdigestWith P exp data s = .next (s.raise .len)) ∨
      (data.length < 2 ^ 61 ∧ execVdigestWith P exp data s =
        .next (((s.setCtx (finish P (absorb P (fresh P) data))).setPhase .fin).complete
          (cteq (digest P data) exp))) := by
  unfold execVdigestWith
  split
  · exact .inl ⟨by have := tooLong_eq_true.mp ‹_›; omega, rfl⟩
  · exact .inr ⟨by have := lt_of_not_tooLong ‹_›; omega, rfl⟩

theorem execLzchk_cases (d : Byte) (h : Hash) (s : State) :
    (128 < d.toNat ∧ execLzchk d h s = .next (s.raise .diff)) ∨
      ∃ hd : d.toNat ≤ 128, execLzchk d h s = .next (s.complete (lzpred h ⟨d.toNat, by omega⟩)) := by
  unfold execLzchk
  obtain ⟨hd, e⟩ | ⟨hd, e⟩ := difficulty?_cases d
  · exact .inr ⟨hd, by rw [e]⟩
  · exact .inl ⟨hd, by rw [e]⟩

theorem execMineWith_cases (P : Params) (d : Byte) (data : List Byte) (s : State) :
    (128 < d.toNat ∧ execMineWith P d data s = .next (s.raise .diff)) ∨
      (∃ _ : d.toNat ≤ 128, 2 ^ 61 ≤ data.length + 8 ∧ execMineWith P d data s = .next (s.raise .len)) ∨
      ∃ hd : d.toNat ≤ 128, data.length + 8 < 2 ^ 61 ∧ execMineWith P d data s =
        .next (State.attempt P ⟨⟨d.toNat, by omega⟩, data⟩ { s with nonce := 0 }) := by
  unfold execMineWith
  obtain ⟨hd, e⟩ | ⟨hd, e⟩ := difficulty?_cases d
  · rw [e]
    dsimp only
    split
    · exact .inr (.inl ⟨hd, tooLong_eq_true.mp ‹_›, rfl⟩)
    · exact .inr (.inr ⟨hd, lt_of_not_tooLong ‹_›, rfl⟩)
  · exact .inl ⟨hd, by rw [e]⟩

theorem execVpowWith_cases (P : Params) (d : Byte) (nonce : Dword) (exp : Hash) (data : List Byte) (s : State) :
    (128 < d.toNat ∧ execVpowWith P d nonce exp data s = .next (s.raise .diff)) ∨
      (∃ _ : d.toNat ≤ 128, 2 ^ 61 ≤ data.length + 8 ∧
        execVpowWith P d nonce exp data s = .next (s.raise .len)) ∨
      ∃ hd : d.toNat ≤ 128, data.length + 8 < 2 ^ 61 ∧ execVpowWith P d nonce exp data s =
        .next (((s.setCtx (spentCtx (powhash P data nonce) data)).setPhase .fin).complete
          (powverify P data nonce ⟨d.toNat, by omega⟩ exp)) := by
  unfold execVpowWith
  obtain ⟨hd, e⟩ | ⟨hd, e⟩ := difficulty?_cases d
  · rw [e]
    dsimp only
    split
    · exact .inr (.inl ⟨hd, tooLong_eq_true.mp ‹_›, rfl⟩)
    · exact .inr (.inr ⟨hd, lt_of_not_tooLong ‹_›, rfl⟩)
  · exact .inl ⟨hd, by rw [e]⟩

/-- One attempt of MINE: it finds the nonce, or exhausts the nonce space, or counts up (R153, R154). -/
theorem State.attempt_cases (P : Params) (j : Search) (s : State) :
    (lzpred (powhash P j.data s.nonce) j.difficulty = true ∧ s.attempt P j =
        (((s.setCtx (spentCtx (powhash P j.data s.nonce) j.data)).setOut
          (powhash P j.data s.nonce)).setPhase .fin).complete false) ∨
      (lzpred (powhash P j.data s.nonce) j.difficulty = false ∧ s.nonce = BitVec.allOnes 64 ∧ s.attempt P j =
        ((s.setCtx (spentCtx (powhash P j.data s.nonce) j.data)).setPhase .fin).raise .exhaust) ∨
      (lzpred (powhash P j.data s.nonce) j.difficulty = false ∧ s.nonce ≠ BitVec.allOnes 64 ∧ s.attempt P j =
        { s with nonce := s.nonce + 1, busy := true, search := some j }) := by
  unfold State.attempt
  dsimp only
  split
  · exact .inl ⟨‹_›, rfl⟩
  · split
    · exact .inr (.inl ⟨Bool.eq_false_iff.mpr ‹_›, ‹_›, rfl⟩)
    · exact .inr (.inr ⟨Bool.eq_false_iff.mpr ‹_›, ‹_›, rfl⟩)

theorem continueSearchWith_cases (P : Params) (s : State) :
    (s.search = none ∧ continueSearchWith P s = .fault .busyWithoutCommand) ∨
      ∃ j, s.search = some j ∧ continueSearchWith P s = .next (s.attempt P j) := by
  unfold continueSearchWith
  split
  · exact .inr ⟨_, ‹_›, rfl⟩
  · exact .inl ⟨‹_›, rfl⟩

theorem execute_cases (F : Frame) (s : State) :
    (∃ i, decode F = .command i ∧ execute F s = exec i s.accept) ∨
      ∃ e, decode F = .rejected e ∧ execute F s = .next (s.accept.raise (rejectionError e)) := by
  unfold execute
  split
  · exact .inl ⟨_, ‹_›, rfl⟩
  · exact .inr ⟨_, ‹_›, rfl⟩

/-- One step with the reset input low. -/
theorem stepRunning_cases (s : State) :
    (s.busy = true ∧ stepRunning s = retireOutcome (continueSearch s)) ∨
      (s.busy = false ∧ s.frames = [] ∧ stepRunning s = .next s) ∨
      ∃ F rest, s.busy = false ∧ s.frames = F :: rest ∧
        stepRunning s = retireOutcome (execute F { s with frames := rest }) := by
  unfold stepRunning
  by_cases hb : s.busy = true
  · exact .inl ⟨hb, by simp [hb]⟩
  · have hb : s.busy = false := by simpa using hb
    cases hf : s.frames with
    | nil => exact .inr (.inl ⟨hb, rfl, by simp [hb]⟩)
    | cons F rest => exact .inr (.inr ⟨F, rest, hb, rfl, by simp [hb]⟩)

/-- One step: the reset input first, else the block runs. -/
theorem step_cases (s : State) :
    (∃ rest, s.resetIn = true :: rest ∧
        step s = .next (State.assertReset Config.params { s with resetIn := rest })) ∨
      (∃ rest, s.resetIn = false :: rest ∧ step s = stepRunning { s with resetIn := rest }) ∨
      (s.resetIn = [] ∧ step s = stepRunning s) := by
  unfold step
  obtain ⟨h, e⟩ | ⟨level, rest, h, e⟩ := s.sampleReset_cases
  · exact .inr (.inr ⟨h, by rw [e]⟩)
  · cases level
    · exact .inr (.inl ⟨rest, h, by rw [e]⟩)
    · exact .inl ⟨rest, h, by rw [e]⟩

theorem step_of_low {s : State} (h : s.resetIn = []) : step s = stepRunning s := by
  obtain ⟨_, h', _⟩ | ⟨_, h', _⟩ | ⟨_, e⟩ := step_cases s
  · simp [h] at h'
  · simp [h] at h'
  · exact e

end Sys2Proof.Machine
end

