-- ==== Sys2Proof/Laws/PerInstr.lean ====
section
/-! SUPPORT. Laws/PerInstr.lean: statements for all instructions, one lemma per constructor. -/

namespace Sys2Proof.Laws

/-- The frame of a command has a legal length for its opcode (30_encoding.md R72, R74). -/
def FrameLegal.Statement (i : Instr) : Prop := lengthOk i.opcode (encode i).length = true

theorem FrameLegal.init : FrameLegal.Statement .init := rfl
theorem FrameLegal.update (data : List Byte) : FrameLegal.Statement (.update data) := by
  simp [FrameLegal.Statement, lengthOk, Opcode.carriesData, Opcode.fixedLength, Instr.opcode, encode]
theorem FrameLegal.final : FrameLegal.Statement .final := rfl
theorem FrameLegal.hash (data : List Byte) : FrameLegal.Statement (.hash data) := by
  simp [FrameLegal.Statement, lengthOk, Opcode.carriesData, Opcode.fixedLength, Instr.opcode, encode]
theorem FrameLegal.vdigest (exp : Hash) (data : List Byte) : FrameLegal.Statement (.vdigest exp data) := by
  simp [FrameLegal.Statement, lengthOk, Opcode.carriesData, Opcode.fixedLength, Instr.opcode, encode, encodeOperands]
theorem FrameLegal.mine (d : Byte) (data : List Byte) : FrameLegal.Statement (.mine d data) := by
  simp [FrameLegal.Statement, lengthOk, Opcode.carriesData, Opcode.fixedLength, Instr.opcode, encode, encodeOperands]
theorem FrameLegal.vpow (d : Byte) (nonce : Dword) (exp : Hash) (data : List Byte) :
    FrameLegal.Statement (.vpow d nonce exp data) := by
  simp [FrameLegal.Statement, lengthOk, Opcode.carriesData, Opcode.fixedLength, Instr.opcode, encode, encodeOperands,
    Machine.le64]
theorem FrameLegal.compress (st : Hash) (m : Chunk) : FrameLegal.Statement (.compress st m) := by
  simp [FrameLegal.Statement, lengthOk, Opcode.carriesData, Opcode.fixedLength, Instr.opcode, encode, encodeOperands]
theorem FrameLegal.cteq (a b : Hash) : FrameLegal.Statement (.cteq a b) := by
  simp [FrameLegal.Statement, lengthOk, Opcode.carriesData, Opcode.fixedLength, Instr.opcode, encode, encodeOperands]
theorem FrameLegal.lzchk (d : Byte) (h : Hash) : FrameLegal.Statement (.lzchk d h) := by
  simp [FrameLegal.Statement, lengthOk, Opcode.carriesData, Opcode.fixedLength, Instr.opcode, encode, encodeOperands]

end Sys2Proof.Laws
end

