-- ==== Sys2Proof/Tests/Slice0.lean ====
section
/-! SUPPORT. Tests/Slice0.lean: the model's own tests. Expected values come from 30_encoding.md R79 (frames written out by
hand), 95_test_vectors.md (V<n>, under the artificial TESTPARAM-A) and 60_exceptions.md; a theorem `test_witness_X` gives
states and operands that meet the hypotheses of the statement Obligations.X. -/

namespace Sys2Proof.Tests

open Sys2Proof.Machine

/-! ### Helpers -/

/-- TESTPARAM-A of 95_test_vectors.md: artificial parameters, not the device's. -/
def paramsA : Params where
  iv := #v[0x01234567, 0x89ABCDEF, 0xFEDCBA98, 0x76543210]
  rk := #v[0x11111111, 0x22222222, 0x44444444, 0x88888888]
  rotLess1 := #v[#v[0, 7, 14, 21], #v[1, 8, 15, 22], #v[2, 9, 16, 23], #v[3, 10, 17, 30]]

/-- A block under TESTPARAM-A right after reset. -/
def freshA : State := State.resetWith paramsA

/-- The device right after reset, with frames for the host to present. -/
def presenting (frames : List Frame) : State := { State.reset with frames := frames }

/-- A finalized engine. -/
def finalized : State := { State.reset with phase := .fin, total := 3 }

/-- Does the outcome go on to a state with the property? -/
def nextHas (r : Result) (p : State → Bool) : Bool :=
  match r with
  | .next t => p t
  | .fault _ => false
  | .refused _ => false

/-- Sixteen zero bytes. -/
def zeroHash : Hash := Vector.replicate 16 0

/-- Sixty-four zero bytes. -/
def zeroChunk : Chunk := Vector.replicate 64 0

/-- The ASCII bytes of "abc". -/
def abc : List Byte := [0x61, 0x62, 0x63]

/-- The ASCII bytes of "blockchain data" (V70, V71, V74). -/
def blockchainData : List Byte :=
  [0x62, 0x6c, 0x6f, 0x63, 0x6b, 0x63, 0x68, 0x61, 0x69, 0x6e, 0x20, 0x64, 0x61, 0x74, 0x61]

/-- V21. -/
def digestAbc : Hash :=
  #v[0x40, 0x90, 0x4f, 0x23, 0x56, 0xcb, 0xc7, 0x09, 0x9e, 0xbc, 0xd0, 0x58, 0x70, 0x64, 0x3a, 0x1d]

/-- The hash of V70.6, of nonce 650. -/
def minedHash : Hash :=
  #v[0x00, 0xd4, 0xd9, 0xd4, 0x13, 0xbb, 0xcf, 0x51, 0x77, 0xc1, 0xbf, 0xb8, 0x4f, 0x6e, 0x78, 0x83]

/-- More data than any command accepts (R176). -/
def hugeData : List Byte := List.replicate (2 ^ 61) 0

theorem hugeData_length : hugeData.length = 2 ^ 61 := List.length_replicate

/-! ### WellFormed refuses each ill-formed operand -/

theorem test_wellFormed_refuses_mine_difficulty_129 : (Instr.mine 129 []).wellFormed = false := by decide
theorem test_wellFormed_refuses_vpow_difficulty_129 : (Instr.vpow 129 0 zeroHash []).wellFormed = false := by decide
theorem test_wellFormed_refuses_lzchk_difficulty_129 : (Instr.lzchk 129 zeroHash).wellFormed = false := by decide
theorem test_wellFormed_accepts_difficulty_128 : (Instr.mine 128 abc).wellFormed = true := by decide

theorem test_wellFormed_refuses_too_long_data :
    (Instr.update hugeData).wellFormed = false ∧ (Instr.hash hugeData).wellFormed = false ∧
      (Instr.vdigest zeroHash hugeData).wellFormed = false ∧ (Instr.mine 0 hugeData).wellFormed = false ∧
      (Instr.vpow 0 0 zeroHash hugeData).wellFormed = false := by
  simp only [Instr.wellFormed, Instr.lengthLegal, hugeData_length]
  decide

/-! ### Decoding: a frame of each command, written out from the formats of R72 and the codes of R79 -/

/-- Sixteen operand bytes in frame order. -/
def sixteen : List Byte := [0x10, 0x11, 0x12, 0x13, 0x14, 0x15, 0x16, 0x17, 0x18, 0x19, 0x1a, 0x1b, 0x1c, 0x1d, 0x1e, 0x1f]

/-- Sixty-four operand bytes in frame order: 0, 1, …, 63. -/
def sixtyFour : List Byte := (List.range 64).map (BitVec.ofNat 8)

theorem test_decode_init : decode [0x01] = .command .init := by decide
theorem test_decode_update : decode [0x02, 0x61] = .command (.update [0x61]) := by decide
theorem test_decode_final : decode [0x03] = .command .final := by decide
theorem test_decode_hash : decode [0x04, 0x61, 0x62, 0x63] = .command (.hash abc) := by decide
theorem test_decode_vdigest : decode (0x05 :: sixteen ++ [0x61]) =
    .command (.vdigest #v[0x10, 0x11, 0x12, 0x13, 0x14, 0x15, 0x16, 0x17, 0x18, 0x19, 0x1a, 0x1b, 0x1c, 0x1d, 0x1e, 0x1f]
      [0x61]) := by decide
theorem test_decode_mine : decode [0x06, 0x81, 0x61, 0x62] = .command (.mine 0x81 [0x61, 0x62]) := by decide
/-- The nonce 0x0102030405060708 is sent least significant byte first (R76). -/
theorem test_decode_vpow :
    decode ([0x07, 0x08, 0x08, 0x07, 0x06, 0x05, 0x04, 0x03, 0x02, 0x01] ++ sixteen ++ [0x61]) =
      .command (.vpow 8 0x0102030405060708
        #v[0x10, 0x11, 0x12, 0x13, 0x14, 0x15, 0x16, 0x17, 0x18, 0x19, 0x1a, 0x1b, 0x1c, 0x1d, 0x1e, 0x1f] [0x61]) := by
  decide
theorem test_decode_compress : decode (0x08 :: sixteen ++ sixtyFour) =
    .command (.compress
      #v[0x10, 0x11, 0x12, 0x13, 0x14, 0x15, 0x16, 0x17, 0x18, 0x19, 0x1a, 0x1b, 0x1c, 0x1d, 0x1e, 0x1f]
      (Vector.ofFn fun k => BitVec.ofNat 8 k.val)) := by decide +kernel
theorem test_decode_cteq : decode (0x09 :: sixteen ++ List.replicate 15 0 ++ [0x01]) =
    .command (.cteq #v[0x10, 0x11, 0x12, 0x13, 0x14, 0x15, 0x16, 0x17, 0x18, 0x19, 0x1a, 0x1b, 0x1c, 0x1d, 0x1e, 0x1f]
      #v[0, 0, 0, 0, 0, 0, 0, 0, 0, 0, 0, 0, 0, 0, 0, 1]) := by decide
theorem test_decode_lzchk : decode (0x0a :: 0x04 :: 0xf0 :: List.replicate 15 0) =
    .command (.lzchk 4 #v[0xf0, 0, 0, 0, 0, 0, 0, 0, 0, 0, 0, 0, 0, 0, 0, 0]) := by decide

/-- V80.1 to V80.5: the opcode is tested before the length. -/
theorem test_decode_reserved :
    decode [] = .rejected .emptyFrame ∧ decode [0x00] = .rejected (.reservedOpcode 0x00) ∧
      decode [0x0b] = .rejected (.reservedOpcode 0x0b) ∧ decode [0xff] = .rejected (.reservedOpcode 0xff) ∧
      decode (List.replicate 81 0x00) = .rejected (.reservedOpcode 0x00) := by decide

/-- V80.6 to V80.15: each fixed length one short or one long, each data format one byte short. -/
theorem test_decode_bad_length :
    decode [0x01, 0x00] = .rejected (.badLength .init 2) ∧ decode [0x03, 0x00] = .rejected (.badLength .final 2) ∧
      decode (0x05 :: List.replicate 15 0) = .rejected (.badLength .vdigest 16) ∧
      decode [0x06] = .rejected (.badLength .mine 1) ∧
      decode (0x07 :: 0x81 :: List.replicate 23 0) = .rejected (.badLength .vpow 25) ∧
      decode (0x08 :: List.replicate 79 0) = .rejected (.badLength .compress 80) ∧
      decode (0x08 :: List.replicate 81 0) = .rejected (.badLength .compress 82) ∧
      decode (0x09 :: List.replicate 31 0) = .rejected (.badLength .cteq 32) ∧
      decode (0x09 :: List.replicate 33 0) = .rejected (.badLength .cteq 34) ∧
      decode (0x0a :: 0x81 :: List.replicate 15 0) = .rejected (.badLength .lzchk 17) := by decide

/-- The table's rows number the opcode byte only: the shortest frame of each command. -/
theorem test_decodeTableWord :
    decodeTableWord 8 0x01 = some .init ∧ decodeTableWord 8 0x02 = some (.update []) ∧
      decodeTableWord 8 0x03 = some .final ∧ decodeTableWord 8 0x04 = some (.hash []) ∧
      decodeTableWord 8 0x05 = some (.vdigest zeroHash []) ∧ decodeTableWord 8 0x06 = some (.mine 0 []) ∧
      decodeTableWord 8 0x07 = some (.vpow 0 0 zeroHash []) ∧ decodeTableWord 8 0x09 = some (.cteq zeroHash zeroHash) ∧
      decodeTableWord 8 0x0a = some (.lzchk 0 zeroHash) ∧ decodeTableWord 8 0x0b = none := by decide
theorem test_decodeTableWord_compress : decodeTableWord 8 0x08 = some (.compress zeroHash zeroChunk) := by
  decide +kernel

/-- The placed instruction is the first one after reset. -/
theorem test_withFetchWord_runs_it :
    step (State.reset.withFetchWord 8 0x01) = retireOutcome (exec .init State.reset.accept) ∧
      step (State.reset.withFetchWord 8 0x06) = retireOutcome (exec (.mine 0 []) State.reset.accept) := ⟨rfl, rfl⟩

/-! ### The pieces of the Compressor, bytes and padding -/

/-- V1 to V4. -/
theorem test_mixFunction :
    mixFunction 0 0x89ABCDEF 0xFEDCBA98 0x76543210 = 0xFEDCBA98 ∧
      mixFunction 1 0x89ABCDEF 0xFEDCBA98 0x76543210 = 0x88888888 ∧
      mixFunction 2 0x89ABCDEF 0xFEDCBA98 0x76543210 = 0x01234567 ∧
      mixFunction 3 0x89ABCDEF 0xFEDCBA98 0x76543210 = 0x77777777 ∧ mixFunction 3 0 0 0 = 0xFFFFFFFF ∧
      mixFunction 3 0 0 0xFFFFFFFF = 0 := by decide

/-- V5, V6. -/
theorem test_step_constants :
    stepConstant paramsA 0 15 = 0x11111120 ∧ stepConstant paramsA 3 15 = 0x88888897 ∧
      stepConstant { paramsA with rk := Vector.replicate 4 0xFFFFFFFF } 0 1 = 0 ∧ rotAmount paramsA 3 3 = 31 ∧
      rotAmount paramsA 3 4 = 4 := by decide

/-- V7. -/
theorem test_rotl :
    rotl 0x80000000 1 = 0x00000001 ∧ rotl 0x00000001 31 = 0x80000000 ∧ rotl 0x12345678 8 = 0x34567812 ∧
      rotl 0x12345678 31 = 0x091A2B3C := by decide

/-- V18.4, V18.5: 55 bytes buffered pad to one chunk, 56 to two. -/
theorem test_padding :
    padding 55 440 = [0x80, 0xb8, 0x01, 0, 0, 0, 0, 0, 0] ∧ padZeros 56 = 63 ∧
      (padding 56 448).drop 64 = [0xc0, 0x01, 0, 0, 0, 0, 0, 0] := by decide

/-- The first row of V16. -/
theorem test_mixStep :
    mixStep paramsA (Vector.ofFn fun k => BitVec.ofNat 8 k.val) 0 (loadRegs paramsA.iv) 0 =
      ⟨0x76543210, 0xb1d1f20f, 0x89abcdef, 0xfedcba98⟩ := by decide +kernel

/-! ### One step of each command -/

theorem test_init_keeps_out :
    nextHas (execInitWith paramsA { freshA with phase := .fin, out := digestAbc, nonce := 7, total := 3 }) (fun t =>
      t.phase = .init ∧ t.h = paramsA.iv ∧ t.total = 0 ∧ t.out = digestAbc ∧ t.nonce = 7) = true := by decide

/-- V32. -/
theorem test_update_buffers :
    nextHas (execUpdateWith paramsA abc freshA) (fun t =>
      t.h = paramsA.iv ∧ t.buf = abc ∧ t.total = 3 ∧ t.phase = .acc ∧ t.status = 0x02) = true := by decide
/-- V34: H of V13. -/
theorem test_update_compresses_whole_chunk :
    nextHas (execUpdateWith paramsA sixtyFour freshA) (fun t =>
      t.h = #v[0x91738BCA, 0x1EBEFFF7, 0xC3A767D3, 0x700DED34] ∧ t.buf = [] ∧ t.total = 64) = true := by
  decide +kernel

/-- V33. -/
theorem test_final_of_abc :
    nextHas (execFinalWith paramsA { freshA with buf := abc, total := 3, phase := .acc }) (fun t =>
      t.out = digestAbc ∧ t.total = 3 ∧ t.status = 0x04) = true := by decide +kernel
/-- V80.16. -/
theorem test_final_twice_is_refused : nextHas (exec .final finalized) (fun t => t.status = 0x34) = true := by decide

/-- V28.2: two final chunks. -/
theorem test_hash_of_56_bytes :
    nextHas (execHashWith paramsA (List.replicate 56 0x61) freshA) (fun t => t.out =
      #v[0x3e, 0xd4, 0xb2, 0xc3, 0x21, 0xe8, 0x21, 0xf4, 0x8b, 0x39, 0xed, 0xff, 0x5a, 0x95, 0xaf, 0xa1]) = true := by
  decide +kernel

/-- V51.1, V51.2. -/
theorem test_vdigest_accepts :
    nextHas (execVdigestWith paramsA digestAbc abc freshA) (fun t => t.result ∧ t.total = 3 ∧ t.out = freshA.out) = true := by
  decide +kernel
theorem test_vdigest_rejects :
    nextHas (execVdigestWith paramsA digestAbc (abc ++ [0x64]) freshA) (fun t => ¬ t.result ∧ t.err = .ok) = true := by
  decide +kernel

/-- V70.1: nonce 0 gives a hash with its lowest bit set, so MINE d = 1 goes on. -/
theorem test_mine_first_attempt_fails : lzpred (powhash paramsA blockchainData 0) 1 = false := by decide +kernel
/-- V71.1: the attempt at nonce 2 succeeds. -/
theorem test_mine_third_attempt_succeeds :
    nextHas (continueSearchWith paramsA { freshA with nonce := 2, busy := true, search := some ⟨1, blockchainData⟩ })
      (fun t => t.nonce = 2 ∧ t.busy = false ∧ t.total = 23 ∧ t.out =
        #v[0x0c, 0x8a, 0x0b, 0x5e, 0xa4, 0xc1, 0x19, 0x02, 0x88, 0x0f, 0x3e, 0xd6, 0xe4, 0x3f, 0xac, 0x5d]) = true := by
  decide +kernel

/-- V74.4, V74.5: the genuine pair at difficulty 10 and at difficulty 11. -/
theorem test_vpow_accepts :
    nextHas (execVpowWith paramsA 10 650 minedHash blockchainData freshA) (fun t => t.result ∧ t.nonce = 0) = true := by
  decide +kernel
theorem test_vpow_rejects_difficulty :
    nextHas (execVpowWith paramsA 11 650 minedHash blockchainData freshA) (fun t => ¬ t.result ∧ t.err = .ok) = true := by
  decide +kernel

/-- V11 as a command. -/
theorem test_compress :
    nextHas (execCompressWith paramsA (ser paramsA.iv) zeroChunk freshA) (fun t => t.h = paramsA.iv ∧ t.out =
      #v[0x78, 0xc3, 0x27, 0xd0, 0x2e, 0x65, 0xc7, 0x77, 0x22, 0x35, 0xb6, 0x31, 0xd2, 0xa9, 0xda, 0xe8]) = true := by
  decide +kernel

/-- V50.1, V50.2. -/
theorem test_cteq_equal : nextHas (exec (.cteq zeroHash zeroHash) State.reset) (fun t => t.status = 0x08) = true := by decide
theorem test_cteq_last_byte_differs :
    nextHas (exec (.cteq zeroHash (zeroHash.set 15 1)) State.reset) (fun t => t.status = 0x00) = true := by decide

/-- V60.1, V60.2, V60.9, V60.10. -/
theorem test_lzchk_tests_low_bits :
    nextHas (exec (.lzchk 4 (zeroHash.set 0 0xf0)) State.reset) (fun t => t.result) = true ∧
      nextHas (exec (.lzchk 4 (zeroHash.set 0 0x0f)) State.reset) (fun t => !t.result) = true ∧
      nextHas (exec (.lzchk 127 (zeroHash.set 15 0x80)) State.reset) (fun t => t.result) = true ∧
      nextHas (exec (.lzchk 127 (zeroHash.set 15 0x40)) State.reset) (fun t => !t.result) = true := by decide
/-- V80.22, V80.23, from a finalized engine. -/
theorem test_lzchk_difficulty_bound :
    nextHas (exec (.lzchk 129 zeroHash) finalized) (fun t => t.status = 0x44) = true ∧
      nextHas (exec (.lzchk 128 zeroHash) finalized) (fun t => t.status = 0x0c) = true := by decide

/-! ### Witnesses: the hypotheses of each statement can be met -/

theorem test_witness_EncodeInvertsDecode : decode [0x06, 0x80, 0x61] = .command (.mine 0x80 [0x61]) := by decide

theorem test_witness_ReservedOpcodeIsRefused_empty :
    (presenting [[]]).sampleReset = (false, presenting [[]]) ∧ (presenting [[]]).busy = false ∧
      (presenting [[]]).search = none ∧ (presenting [[]]).frames = [[]] := ⟨rfl, rfl, rfl, rfl⟩
theorem test_witness_ReservedOpcodeIsRefused_byte :
    (presenting [[0x0b, 0x01]]).sampleReset = (false, presenting [[0x0b, 0x01]]) ∧
      (presenting [[0x0b, 0x01]]).busy = false ∧ (presenting [[0x0b, 0x01]]).search = none ∧
      (presenting [[0x0b, 0x01]]).frames = [[0x0b, 0x01]] ∧ 0x0B ≤ (0x0b : Byte).toNat ∧ (0x00 : Byte).toNat = 0 :=
  ⟨rfl, rfl, rfl, rfl, by decide, by decide⟩

/-- One byte too many or too few for each clause. -/
theorem test_witness_IllegalLengthIsRefused :
    (∀ F : Frame, (presenting [F]).sampleReset = (false, presenting [F]) ∧ (presenting [F]).busy = false ∧
        (presenting [F]).search = none ∧ (presenting [F]).frames = [F]) ∧
      [(0x00 : Byte)].length + 1 ≠ 1 ∧ (List.replicate 79 (0x00 : Byte)).length + 1 ≠ 81 ∧
      (List.replicate 33 (0x00 : Byte)).length + 1 ≠ 33 ∧ (List.replicate 16 (0x00 : Byte)).length + 1 ≠ 18 ∧
      (List.replicate 15 (0x00 : Byte)).length + 1 < 17 ∧ ([] : List Byte).length + 1 < 2 ∧
      (List.replicate 24 (0x00 : Byte)).length + 1 < 26 := ⟨fun _ => ⟨rfl, rfl, rfl, rfl⟩, by decide⟩

theorem test_witness_StepRunsDecodedCommand :
    (presenting [[0x01]]).sampleReset = (false, presenting [[0x01]]) ∧ (presenting [[0x01]]).busy = false ∧
      (presenting [[0x01]]).frames = [[0x01]] ∧ decode [0x01] = .command .init := ⟨rfl, rfl, rfl, by decide⟩

/-- A block with a MINE in progress, at nonce 5. -/
def mining (d : Difficulty) : State := { State.reset with nonce := 5, busy := true, search := some ⟨d, abc⟩ }

theorem test_witness_BusyBlockTakesNoFrame :
    (mining 0).sampleReset = (false, mining 0) ∧ (mining 0).busy = true ∧ ∃ t, step (mining 0) = .next t :=
  ⟨rfl, rfl, _, rfl⟩

theorem test_witness_IdleBlockStays :
    State.reset.sampleReset = (false, State.reset) ∧ State.reset.busy = false ∧ State.reset.frames = [] :=
  ⟨rfl, rfl, rfl⟩

theorem test_witness_AssertedResetClearsEverything :
    ({ mining 128 with resetIn := [true] } : State).resetIn = true :: [] := rfl

theorem test_witness_RotlIsCircularShift : 1 ≤ 31 ∧ 31 ≤ 31 ∧ 1 ≤ 1 ∧ 1 ≤ 31 ∧ rotl 0x80000001 1 = 0x00000003 := by decide

/-- The registers before step n of the 64 steps, counted through the rounds. -/
def regsAt (P : Params) (S : Chain) (M : Chunk) : Nat → Regs
  | 0 => loadRegs S
  | n + 1 => mixStep P M (Fin.ofNat 4 (n / 16)) (regsAt P S M n) (Fin.ofNat 16 n)

theorem regsAt_step (P : Params) (S : Chain) (M : Chunk) (r : Fin 4) (i : Fin 16) :
    regsAt P S M (16 * r.val + i.val + 1) = mixStep P M r (regsAt P S M (16 * r.val + i.val)) i := by
  have hr : Fin.ofNat 4 ((16 * r.val + i.val) / 16) = r := by ext; simp [Fin.ofNat]; omega
  have hi : Fin.ofNat 16 (16 * r.val + i.val) = i := by ext; simp [Fin.ofNat]
  rw [regsAt, hr, hi]

theorem test_witness_CompressIsSixtyFourSteps : ∃ (F : Fin 4 → Word → Word → Word → Word)
    (p : Fin 4 → Fin 16 → Fin 16) (w : Fin 16 → Word) (g : Nat → Regs),
    (∀ b c d, F 0 b c d = (b &&& c) ||| (~~~b &&& d)) ∧ (∀ b c d, F 1 b c d = (b &&& d) ||| (c &&& ~~~d)) ∧
      (∀ b c d, F 2 b c d = b ^^^ c ^^^ d) ∧ (∀ b c d, F 3 b c d = c ^^^ (b ||| ~~~d)) ∧
      (∀ i, (p 0 i).val = i.val) ∧ (∀ i, (p 1 i).val = (5 * i.val + 1) % 16) ∧
      (∀ i, (p 2 i).val = (3 * i.val + 5) % 16) ∧ (∀ i, (p 3 i).val = (7 * i.val) % 16) ∧
      (∀ j : Fin 16, (w j).toNat = (zeroChunk[4 * j.val]).toNat + 2 ^ 8 * (zeroChunk[4 * j.val + 1]).toNat +
        2 ^ 16 * (zeroChunk[4 * j.val + 2]).toNat + 2 ^ 24 * (zeroChunk[4 * j.val + 3]).toNat) ∧
      g 0 = ⟨paramsA.iv[0], paramsA.iv[1], paramsA.iv[2], paramsA.iv[3]⟩ ∧
      ∀ (r : Fin 4) (i : Fin 16), g (16 * r.val + i.val + 1) =
        { a := (g (16 * r.val + i.val)).d
          b := (g (16 * r.val + i.val)).b +
            rotl ((g (16 * r.val + i.val)).a +
                F r (g (16 * r.val + i.val)).b (g (16 * r.val + i.val)).c (g (16 * r.val + i.val)).d +
                w (p r i) + (paramsA.rk[r.val] + BitVec.ofNat 32 i.val))
              ((paramsA.rotLess1[r.val][i.val % 4]'(Nat.mod_lt _ (by decide))).val + 1)
          c := (g (16 * r.val + i.val)).b
          d := (g (16 * r.val + i.val)).c } :=
  ⟨mixFunction, wordIndex, messageWord zeroChunk, regsAt paramsA paramsA.iv zeroChunk, fun _ _ _ => rfl,
    fun _ _ _ => rfl, fun _ _ _ => rfl, fun _ _ _ => rfl, fun _ => rfl, fun _ => rfl, fun _ => rfl, fun _ => rfl,
    fun _ => word32_toNat _ _ _ _, rfl, regsAt_step paramsA paramsA.iv zeroChunk⟩

theorem test_witness_AbsorbIsAppendThenDrain :
    (⟨paramsA.iv, List.replicate 63 0, 63⟩ : Ctx).buf.length ≤ 63 := by decide

theorem test_witness_PaddingCompletesOneOrTwoChunks : 55 ≤ 63 ∧ 56 ≤ 63 ∧ 63 ≤ 63 := by decide

theorem test_witness_DigestIsFoldOverPaddedMessage : abc.length < 2 ^ 61 := by decide

theorem test_witness_UpdateCompletes :
    State.reset.phase ≠ .fin ∧ State.reset.bufLen ≤ 63 ∧ State.reset.total.toNat + abc.length < 2 ^ 61 := by decide

theorem test_witness_FinalCompletes :
    State.reset.phase ≠ .fin ∧ State.reset.bufLen ≤ 63 ∧ State.reset.total.toNat < 2 ^ 61 := by decide

/-- The other arm of the padding: 56 bytes buffered. -/
theorem test_witness_FinalCompletes_two_chunks :
    ∃ s : State, s.phase ≠ .fin ∧ s.bufLen = 56 ∧ s.total.toNat < 2 ^ 61 :=
  ⟨{ State.reset with phase := .acc, buf := List.replicate 56 0, total := 56 }, by decide, by decide, by decide⟩

theorem test_witness_HashCompletes : ([] : List Byte).length < 2 ^ 61 ∧ (List.replicate 64 (0 : Byte)).length < 2 ^ 61 := by
  decide

theorem test_witness_StreamedDigestIsOneShotDigest : [abc, [], abc].flatten.length < 2 ^ 61 := by decide

theorem test_witness_FinalizedEngineIsNotReused : finalized.phase = .fin := rfl

theorem test_witness_TooLongMessageIsRefused :
    (∃ s : State, s.phase ≠ .fin ∧ 2 ^ 61 ≤ s.total.toNat + [(0x00 : Byte)].length) ∧ 2 ^ 61 ≤ hugeData.length ∧
      ((128 : Byte).toNat ≤ 128 ∧ 2 ^ 61 ≤ hugeData.length + 8) := by
  rw [hugeData_length]
  exact ⟨⟨{ State.reset with phase := .acc, total := BitVec.ofNat 64 (2 ^ 61 - 1) }, by decide, by decide⟩, by decide,
    by decide⟩

/-- The last clause: a command that ends in E_LEN. -/
theorem test_witness_TooLongMessageIsRefused_converse :
    ∃ t : State, exec (.hash hugeData) State.reset = .next t ∧ t.busy = false ∧ t.err = .len := by
  obtain ⟨_, e⟩ | ⟨h, _⟩ := execHashWith_cases Config.params hugeData State.reset
  · exact ⟨_, e, rfl, rfl⟩
  · rw [hugeData_length] at h; exact absurd h (by decide)

/-- The boundary of the third clause: 2^61 - 8 bytes of data. -/
theorem test_witness_TooLongMessageIsRefused_boundary : 2 ^ 61 ≤ (List.replicate (2 ^ 61 - 8) (0 : Byte)).length + 8 := by
  rw [List.length_replicate]; decide

theorem test_witness_VdigestCompletes : abc.length < 2 ^ 61 := by decide

theorem test_witness_DigestRoundTripVerifies :
    abc.length < 2 ^ 61 ∧ ∃ t, exec (.hash abc) State.reset = .next t := ⟨by decide, _, rfl⟩

theorem test_witness_PredicateIsMonotone : (0 : Difficulty) ≤ 128 ∧ lzpred zeroHash 128 = true := by decide

theorem test_witness_LzchkCompletes : (128 : Byte).toNat = (128 : Difficulty).val ∧ (0 : Byte).toNat = (0 : Difficulty).val := by
  decide

theorem test_witness_DifficultyAbove128IsRefused : 128 < (129 : Byte).toNat := by decide
theorem test_witness_DifficultyAbove128IsRefused_legal :
    (128 : Byte).toNat ≤ 128 ∧ ∃ t, exec (.lzchk 128 zeroHash) State.reset = .next t ∧ t.busy = false :=
  ⟨by decide, _, rfl, rfl⟩

theorem test_witness_VpowCompletes : (128 : Byte).toNat = (128 : Difficulty).val ∧ abc.length + 8 < 2 ^ 61 := by decide

theorem test_witness_MineCompletesAtNonceZero :
    (0 : Byte).toNat = (0 : Difficulty).val ∧ abc.length + 8 < 2 ^ 61 ∧ (0 : Difficulty).val = 0 := by decide

/-- The other case of the hypothesis. -/
theorem test_witness_MineCompletesAtNonceZero_by_predicate :
    lzpred (powhash Config.params abc 0) (0 : Difficulty) = true := rfl

theorem test_witness_MineGoesOnAfterFailedFirstAttempt :
    (1 : Byte).toNat = (1 : Difficulty).val ∧ blockchainData.length + 8 < 2 ^ 61 ∧
      lzpred (powhash paramsA blockchainData 0) 1 = false := ⟨by decide, by decide, test_mine_first_attempt_fails⟩

theorem test_witness_BusyStepIsOneAttempt :
    (mining 8).sampleReset = (false, mining 8) ∧ (mining 8).busy = true ∧ (mining 8).search = some ⟨8, abc⟩ :=
  ⟨rfl, rfl, rfl⟩

/-- A block at the last nonce of a MINE of difficulty 128. -/
def exhausted : State := { freshA with nonce := BitVec.allOnes 64, busy := true, search := some ⟨128, abc⟩ }

theorem test_witness_ExhaustedSearchEnds :
    exhausted.busy = true ∧ exhausted.search = some ⟨128, abc⟩ ∧ exhausted.nonce.toNat = 2 ^ 64 - 1 ∧
      lzpred (powhash paramsA abc exhausted.nonce) 128 = false := ⟨rfl, rfl, by decide, by decide +kernel⟩

/-- One witness for each outcome of an attempt: success, exhaustion (`test_witness_ExhaustedSearchEnds`), going on. -/
theorem test_witness_BusyStepIsOneAttempt_success :
    (mining 0).busy = true ∧ (mining 0).search = some ⟨0, abc⟩ ∧
      lzpred (powhash Config.params abc (mining 0).nonce) (0 : Difficulty) = true := ⟨rfl, rfl, rfl⟩

theorem test_witness_MineRunRefinesMineFunction :
    (presenting [[0x06, 0x00]]).resetIn = [] ∧ (presenting [[0x06, 0x00]]).busy = false ∧
      (presenting [[0x06, 0x00]]).frames = [[0x06, 0x00]] ∧ decode [0x06, 0x00] = .command (.mine 0 []) ∧
      (0 : Byte).toNat = (0 : Difficulty).val ∧ ([] : List Byte).length + 8 < 2 ^ 61 :=
  ⟨rfl, rfl, rfl, by decide, by decide, by decide⟩

/-- A block under TESTPARAM-A with the MINE of V71.1 at nonce 0. -/
def searching : State := { freshA with busy := true, search := some ⟨1, blockchainData⟩ }

theorem test_witness_BusyStepIsOneAttempt_goes_on :
    searching.busy = true ∧ searching.search = some ⟨1, blockchainData⟩ ∧ searching.nonce.toNat ≠ 2 ^ 64 - 1 ∧
      lzpred (powhash paramsA blockchainData searching.nonce) 1 = false :=
  ⟨rfl, rfl, by decide, test_mine_first_attempt_fails⟩

theorem test_witness_EveryFailedAttemptDecreasesTheMeasure :
    searching.busy = true ∧ ∃ t, continueSearchWith paramsA searching = .next t ∧ t.busy = true := by
  refine ⟨rfl, _, rfl, ?_⟩
  obtain ⟨h, _⟩ | ⟨_, h, _⟩ | ⟨_, _, h⟩ := State.attempt_cases paramsA ⟨1, blockchainData⟩ searching
  · exact absurd h (by rw [show searching.nonce = 0 from rfl, test_mine_first_attempt_fails]; decide)
  · exact absurd h (by decide)
  · rw [h]

theorem test_witness_MinedPairVerifies :
    (0 : Byte).toNat = (0 : Difficulty).val ∧ abc.length + 8 < 2 ^ 61 ∧
      mine Config.params abc 0 = some (0, powhash Config.params abc 0) := ⟨by decide, by decide, rfl⟩

theorem test_witness_ErrorsChangeOnlyStatus :
    ∃ t, exec (.lzchk 129 zeroHash) State.reset = .next t ∧ t.busy = false ∧ t.err ≠ .ok :=
  ⟨_, rfl, rfl, by decide⟩

/-- A command of each opcode that ends in its first step without error. -/
def sample : Opcode → Instr
  | .init => .init
  | .update => .update abc
  | .final => .final
  | .hash => .hash abc
  | .vdigest => .vdigest zeroHash abc
  | .mine => .mine 0 abc
  | .vpow => .vpow 128 0 zeroHash abc
  | .compress => .compress zeroHash zeroChunk
  | .cteq => .cteq zeroHash zeroHash
  | .lzchk => .lzchk 128 zeroHash

/-- One witness for each clause of the table; it serves ErrorsOfEachCommand, OutAndNonceWriters and PhaseTransitions. -/
theorem test_witness_ErrorsOfEachCommand (o : Opcode) :
    (sample o).opcode = o ∧ ∃ t, exec (sample o) State.reset = .next t ∧ t.busy = false ∧ t.err = .ok := by
  cases o <;> exact ⟨rfl, _, rfl, rfl, rfl⟩

theorem test_witness_ResultOnlyFromVerifyCommands :
    ∃ t, exec (.cteq zeroHash zeroHash) State.reset = .next t ∧ t.busy = false ∧ t.result = true := ⟨_, rfl, rfl, rfl⟩

theorem test_witness_OutAndNonceWriters :
    (∃ t, exec (.compress zeroHash zeroChunk) State.reset = .next t) ∧
      ∃ s t : State, exec (.mine 0 abc) s = .next t ∧ t.nonce ≠ s.nonce :=
  ⟨⟨_, rfl⟩, { State.reset with nonce := 9 }, _, rfl, by decide⟩

/-- The clause of the commands that fail: PHASE stays FIN. -/
theorem test_witness_PhaseTransitions_failing :
    ∃ t, exec (.update abc) finalized = .next t ∧ t.busy = false ∧ t.err ≠ .ok := ⟨_, rfl, rfl, by decide⟩

/-- Each command the statement speaks of, from two states of different history. -/
theorem test_witness_OneShotCommandsForgetHistory (o : Opcode) (h₁ : o ≠ .update) (h₂ : o ≠ .final) :
    (sample o).opcode = o ∧ (∃ t, exec (sample o) State.reset = .next t ∧ t.busy = false ∧ t.err = .ok) ∧
      ∃ t, exec (sample o) { finalized with nonce := 9 } = .next t := by
  cases o <;> first | contradiction | exact ⟨rfl, ⟨_, rfl, rfl, rfl⟩, _, rfl⟩

theorem test_witness_OneShotCommandsForgetHistory_mine :
    (Instr.mine 0 abc).opcode = .mine ∧ (Instr.mine 0 abc).wellFormed = true ∧
      (Instr.mine 128 abc).opcode = .mine ∧ (Instr.mine 128 abc).wellFormed = true := by decide

theorem test_witness_IllFormedCommandIsRefused :
    (Instr.mine 129 []).wellFormed = false ∧ (Instr.hash hugeData).wellFormed = false :=
  ⟨by decide, test_wellFormed_refuses_too_long_data.2.1⟩

/-- A block with the invariant and a MINE in progress; its next step is an attempt. -/
theorem test_witness_EveryStepKeepsInvariant : (mining 0).Inv ∧ ∃ t, step (mining 0) = .next t := by
  refine ⟨⟨?_, rfl, ?_, ?_⟩, _, rfl⟩
  · exact fun h => absurd h (by decide)
  · intro j h
    have e : j = ⟨0, abc⟩ := (Option.some.inj h).symm
    rw [e]; decide
  · exact fun _ => rfl

theorem test_witness_IndexAdvancesByOne :
    (presenting [[0x01]]).sampleReset = (false, presenting [[0x01]]) ∧
      (∃ t, step (presenting [[0x01]]) = .next t) ∧ (presenting [[0x01]]).frames ≠ [] := ⟨rfl, ⟨_, rfl⟩, by decide⟩
/-- The other case: a MINE in progress. -/
theorem test_witness_IndexAdvancesByOne_busy :
    (mining 0).sampleReset = (false, mining 0) ∧ (∃ t, step (mining 0) = .next t) ∧ (mining 0).busy = true :=
  ⟨rfl, ⟨_, rfl⟩, rfl⟩

theorem test_witness_EveryRunIsSafe : (mining 0).Inv := test_witness_EveryStepKeepsInvariant.1

end Sys2Proof.Tests
end

section
/-! The block after reset: its registers (10_state.md R37), and the engine as a freshly constructed one (R120). -/

namespace Sys2Proof.Machine

@[simp] theorem State.reset_h : State.reset.h = Config.params.iv := rfl
@[simp] theorem State.reset_buf : State.reset.buf = [] := rfl
@[simp] theorem State.reset_total : State.reset.total = 0 := rfl
@[simp] theorem State.reset_phase : State.reset.phase = .init := rfl
@[simp] theorem State.reset_out : State.reset.out = Vector.replicate 16 0x00 := rfl
@[simp] theorem State.reset_nonce : State.reset.nonce = 0 := rfl
@[simp] theorem State.reset_result : State.reset.result = false := rfl
@[simp] theorem State.reset_err : State.reset.err = .ok := rfl
@[simp] theorem State.reset_busy : State.reset.busy = false := rfl
theorem State.reset_bufLen : State.reset.bufLen = 0 := by simp

/-- Reset makes the engine context the fresh one (R37, 41_digest_engine.md R120). -/
@[simp] theorem State.reset_ctx : State.reset.ctx = fresh Config.params := by simp [State.ctx, fresh]

/-- Finalizing a fresh context hashes the empty string (R126). -/
theorem finishHash_fresh (P : Params) : finishHash P (fresh P) = digest P [] := by rw [digest, absorb_nil]

theorem exec_final_eq (s : State) : exec .final s = execFinalWith Config.params s := rfl

/-- A FINAL before finalization completes, and what it leaves (R129). -/
theorem exec_final_of_phase_ne_fin {s : State} (h : s.phase ≠ .fin) :
    exec .final s = .next ((((s.setCtx (finish Config.params s.ctx)).setOut
      (finishHash Config.params s.ctx)).setPhase .fin).complete false) := by
  rw [exec_final_eq]
  obtain ⟨hfin, _⟩ | ⟨_, e⟩ := execFinalWith_cases Config.params s
  · exact absurd hfin h
  · exact e

/-- FINAL straight after reset puts the digest of the empty string in OUT (R37). -/
theorem exec_final_reset_out : ∃ t, exec .final State.reset = .next t ∧ t.out = digest Config.params [] := by
  have hphase : State.reset.phase ≠ .fin := by simp
  refine ⟨_, exec_final_of_phase_ne_fin hphase, ?_⟩
  simp [finishHash_fresh]

/-- Settles O9: each register by its reset lemma, and the FINAL from the fresh context that reset leaves. -/
theorem resetValues : Obligations.ResetValues :=
  ⟨State.reset_h, State.reset_bufLen, State.reset_total, State.reset_phase, State.reset_out, State.reset_nonce,
    State.reset_result, State.reset_err, State.reset_busy, exec_final_reset_out⟩

end Sys2Proof.Machine
end

section
/-! ser and deser (20_memory.md R54): each byte of `ser`, each word of `deser`, and that they undo each other because
`le32` and `LE32` do (00_scope.md R10). -/

namespace Sys2Proof.Machine

/-- `le32` undoes `LE32`: byte m of the word made of four bytes is the m-th of them (R10). -/
theorem word32_extractLsb' (b : Fin 4 → Byte) (m : Fin 4) :
    (word32 (b 0) (b 1) (b 2) (b 3)).extractLsb' (8 * m.val) 8 = b m := by
  have h0 := (b 0).isLt
  have h1 := (b 1).isLt
  have h2 := (b 2).isLt
  have h3 := (b 3).isLt
  apply BitVec.eq_of_toNat_eq
  rw [BitVec.extractLsb'_toNat, word32_toNat, Nat.shiftRight_eq_div_pow]
  match m with
  | 0 | 1 | 2 | 3 => simp; omega

/-- `LE32` undoes `le32`: a word is made of its own four bytes (R10). -/
theorem word32_of_bytes (w : Word) :
    word32 (w.extractLsb' 0 8) (w.extractLsb' 8 8) (w.extractLsb' 16 8) (w.extractLsb' 24 8) = w := by
  have hw := w.isLt
  apply BitVec.eq_of_toNat_eq
  simp only [word32_toNat, BitVec.extractLsb'_toNat, Nat.shiftRight_eq_div_pow]
  omega

/-- Byte m of `le32(w)` is w[8m+7:8m] (R10). -/
theorem le32_getElem (w : Word) (m : Fin 4) : (le32 w)[m.val] = w.extractLsb' (8 * m.val) 8 := by
  match m with
  | 0 | 1 | 2 | 3 => rfl

theorem ser_getElem (S : Chain) (j m : Fin 4) :
    (ser S)[4 * j.val + m.val] = S[j.val].extractLsb' (8 * m.val) 8 := by
  have hm := m.isLt
  rw [ser, toVec_getElem (by simp), ← le32_getElem]
  match j with
  | 0 | 1 | 2 | 3 => grind [le32_length]

theorem deser_getElem (B : Hash) (j : Fin 4) :
    (deser B)[j.val] =
      word32 B[4 * j.val] B[4 * j.val + 1] B[4 * j.val + 2] B[4 * j.val + 3] := by
  match j with
  | 0 | 1 | 2 | 3 => rfl

theorem deser_ser (S : Chain) : deser (ser S) = S := by
  ext1 j hj
  calc (deser (ser S))[j]
      = word32 (S[j].extractLsb' 0 8) (S[j].extractLsb' 8 8) (S[j].extractLsb' 16 8) (S[j].extractLsb' 24 8) := by
        rw [deser_getElem (ser S) ⟨j, hj⟩]
        congr 1
        exacts [ser_getElem S ⟨j, hj⟩ 0, ser_getElem S ⟨j, hj⟩ 1, ser_getElem S ⟨j, hj⟩ 2, ser_getElem S ⟨j, hj⟩ 3]
    _ = S[j] := word32_of_bytes S[j]

theorem ser_deser_getElem (B : Hash) (j m : Fin 4) : (ser (deser B))[4 * j.val + m.val] = B[4 * j.val + m.val] := by
  rw [ser_getElem, deser_getElem]
  exact word32_extractLsb' (fun m => B[4 * j.val + m.val]) m

theorem ser_deser (B : Hash) : ser (deser B) = B := by
  ext1 k hk
  have h := ser_deser_getElem B ⟨k / 4, by omega⟩ ⟨k % 4, by omega⟩
  simpa only [Nat.div_add_mod] using h

/-- The example of R54. -/
theorem ser_example : ser #v[0x01234567, 0x89ABCDEF, 0xFEDCBA98, 0x76543210] =
    #v[0x67, 0x45, 0x23, 0x01, 0xef, 0xcd, 0xab, 0x89, 0x98, 0xba, 0xdc, 0xfe, 0x10, 0x32, 0x54, 0x76] := by
  decide

/-- Settles O11: the bytes of `ser`, the words of `deser` as the sum of R10, the two inverses and the example. -/
theorem serAndDeserAreInverse : Obligations.SerAndDeserAreInverse :=
  ⟨ser_getElem, fun B j => by rw [deser_getElem, word32_toNat], deser_ser, ser_deser, ser_example⟩

end Sys2Proof.Machine
end

section
/-! The loop of `compress` (40_compressor.md R107): the formulas of R101, R103 and R104 determine the model's functions,
and `compress` follows any sequence of registers whose members are one step apart. -/

namespace Sys2Proof.Machine

/-- The four formulas of R104 determine the Boolean mixing function. -/
theorem eq_mixFunction_of_formulas {F : Fin 4 → Word → Word → Word → Word}
    (h0 : ∀ b c d, F 0 b c d = (b &&& c) ||| (~~~b &&& d)) (h1 : ∀ b c d, F 1 b c d = (b &&& d) ||| (c &&& ~~~d))
    (h2 : ∀ b c d, F 2 b c d = b ^^^ c ^^^ d) (h3 : ∀ b c d, F 3 b c d = c ^^^ (b ||| ~~~d)) : F = mixFunction := by
  funext r b c d
  match r with
  | 0 => exact h0 b c d
  | 1 => exact h1 b c d
  | 2 => exact h2 b c d
  | 3 => exact h3 b c d

/-- The four formulas of R103 determine the message-word index. -/
theorem eq_wordIndex_of_formulas {p : Fin 4 → Fin 16 → Fin 16} (h0 : ∀ i, (p 0 i).val = i.val)
    (h1 : ∀ i, (p 1 i).val = (5 * i.val + 1) % 16) (h2 : ∀ i, (p 2 i).val = (3 * i.val + 5) % 16)
    (h3 : ∀ i, (p 3 i).val = (7 * i.val) % 16) : p = wordIndex := by
  funext r i
  apply Fin.ext
  match r with
  | 0 => exact h0 i
  | 1 => exact h1 i
  | 2 => exact h2 i
  | 3 => exact h3 i

/-- The little-endian sum of R101 determines the message words. -/
theorem eq_messageWord_of_toNat {M : Chunk} {w : Fin 16 → Word}
    (h : ∀ j : Fin 16, (w j).toNat = (M[4 * j.val]).toNat + 2 ^ 8 * (M[4 * j.val + 1]).toNat +
      2 ^ 16 * (M[4 * j.val + 2]).toNat + 2 ^ 24 * (M[4 * j.val + 3]).toNat) : w = messageWord M := by
  funext j
  apply BitVec.eq_of_toNat_eq
  rw [h, messageWord, word32_toNat]

/-- If step i of round r leads from member 16r + i of a sequence to the next, the four rounds lead from its first member
to its 65th. -/
theorem foldl_mixRound_of_steps {P : Params} {M : Chunk} (g : Nat → Regs)
    (h : ∀ (r : Fin 4) (i : Fin 16), g (16 * r.val + i.val + 1) = mixStep P M r (g (16 * r.val + i.val)) i) :
    rounds.foldl (mixRound P M) (g 0) = g 64 := by
  have round (r : Fin 4) (m n : Nat) (hm : m = 16 * r.val) (hn : n = m + 16) : mixRound P M (g m) r = g n := by
    subst hm hn
    exact mixRound_of_steps g (16 * r.val) fun i => (h r i).symm
  calc rounds.foldl (mixRound P M) (g 0)
      = mixRound P M (mixRound P M (mixRound P M (mixRound P M (g 0) 0) 1) 2) 3 := by
        simp only [rounds, List.foldl_cons, List.foldl_nil]
    _ = g 64 := by
        rw [round 0 0 16 rfl rfl, round 1 16 32 rfl rfl, round 2 32 48 rfl rfl, round 3 48 64 rfl rfl]

/-- The feed-forward addition at the end of `compress`: each state word plus the register it was copied into (R107). -/
def feedForward (S : Chain) (g : Regs) : Chain := #v[S[0] + g.a, S[1] + g.b, S[2] + g.c, S[3] + g.d]

theorem compress_eq_feedForward (P : Params) (S : Chain) (M : Chunk) :
    compress P S M = feedForward S (rounds.foldl (mixRound P M) (loadRegs S)) := rfl

/-- `compress` along a sequence of registers that starts with the state words: the feed-forward of its 65th member. -/
theorem compress_of_steps {P : Params} {S : Chain} {M : Chunk} (g : Nat → Regs) (hstart : g 0 = loadRegs S)
    (h : ∀ (r : Fin 4) (i : Fin 16), g (16 * r.val + i.val + 1) = mixStep P M r (g (16 * r.val + i.val)) i) :
    compress P S M = feedForward S (g 64) := by
  rw [compress_eq_feedForward, ← hstart, foldl_mixRound_of_steps g h]

/-- Settles O15: the written-out formulas are the model's functions, so each step of the sequence is `mixStep`, and
`compress` follows the sequence. -/
theorem compressIsSixtyFourSteps : Obligations.CompressIsSixtyFourSteps := by
  intro P S M F p w g hF0 hF1 hF2 hF3 hp0 hp1 hp2 hp3 hw hstart hstep
  obtain rfl := eq_mixFunction_of_formulas hF0 hF1 hF2 hF3
  obtain rfl := eq_wordIndex_of_formulas hp0 hp1 hp2 hp3
  obtain rfl := eq_messageWord_of_toNat hw
  have hmix (r : Fin 4) (i : Fin 16) : g (16 * r.val + i.val + 1) = mixStep P M r (g (16 * r.val + i.val)) i :=
    hstep r i
  exact compress_of_steps g hstart hmix

end Sys2Proof.Machine
end

section
/-! The proof-of-work predicate (43_pow_engine.md R150): its whole zero bytes and, through the mask, the low bits of the
byte after them. -/

namespace Sys2Proof.Machine

/-- The mask `0xFF >> (8 - rb)` keeps the rb least significant bits (R150). -/
theorem lowMask_getLsbD {rb b : Nat} (hrb : rb ≤ 8) : (lowMask rb).getLsbD b = decide (b < rb) := by
  have hff : (0xFF#8) = BitVec.allOnes 8 := by decide
  rw [lowMask, hff, BitVec.getLsbD_ushiftRight, BitVec.getLsbD_allOnes, decide_eq_decide]
  omega

theorem and_lowMask_eq_zero_iff {rb : Nat} (hrb : rb ≤ 8) (x : Byte) :
    x &&& lowMask rb = 0x00 ↔ ∀ b, b < rb → x.getLsbD b = false := by
  have hbit (b : Nat) : (x &&& lowMask rb).getLsbD b = (x.getLsbD b && decide (b < rb)) := by
    rw [BitVec.getLsbD_and, lowMask_getLsbD hrb]
  constructor
  · intro hzero b hb
    have := hbit b
    rw [hzero] at this
    simpa [hb] using this.symm
  · intro hlow
    apply BitVec.eq_of_getLsbD_eq
    intro b _
    by_cases hb : b < rb
    · simp [hbit, hlow b hb]
    · simp [hbit, hb]

/-- The first loop of the predicate: the first m bytes of a hash are zero (R150). -/
theorem take_all_zero_iff (h : Hash) (m : Nat) :
    (h.toList.take m).all (· == 0x00) = true ↔ ∀ k : Fin 16, k.val < m → h[k.val] = 0x00 := by
  simp only [List.all_eq_true, beq_iff_eq, List.mem_take_iff_getElem, Vector.length_toList, Vector.getElem_toList]
  constructor
  · intro hall k hk
    exact hall _ ⟨k.val, by omega, rfl⟩
  · rintro hall _ ⟨k, hk, rfl⟩
    exact hall ⟨k, by omega⟩ (show k < m by omega)

/-- The predicate as the two tests of R150; where d is a multiple of 8 the second one asks for nothing. -/
theorem lzpred_iff (h : Hash) (d : Difficulty) : lzpred h d = true ↔
    (∀ k : Fin 16, k.val < d.val / 8 → h[k.val] = 0x00) ∧
    (∀ k : Fin 16, k.val = d.val / 8 → ∀ b, b < d.val % 8 → (h[k.val]).getLsbD b = false) := by
  rw [lzpred, Bool.and_eq_true, take_all_zero_iff]
  apply and_congr_right'
  split
  case isTrue hr =>
    rw [beq_iff_eq, and_lowMask_eq_zero_iff (by omega)]
    constructor
    · rintro hlow ⟨_, _⟩ rfl
      exact hlow
    · exact fun hlow => hlow ⟨d.val / 8, by omega⟩ rfl
  case isFalse hr => simp [Nat.eq_zero_of_not_pos hr]

@[simp] theorem lzpred_zero (h : Hash) : lzpred h 0 = true := by simp [lzpred_iff]

theorem lzpred_128_iff (h : Hash) : lzpred h 128 = true ↔ h = Vector.replicate 16 0x00 := by
  have hfz : (128 : Difficulty).val / 8 = 16 := rfl
  have hrb : (128 : Difficulty).val % 8 = 0 := rfl
  rw [lzpred_iff, hfz, hrb]
  constructor
  · rintro ⟨hbytes, _⟩
    ext1 k hk
    simpa using hbytes ⟨k, hk⟩ hk
  · rintro rfl
    simp

/-- A hash with no leading zero bit passes at 4, for its low four bits are zero (R150, 90_conflicts.md C1). -/
theorem lzpred_low_nibble_zero : lzpred #v[0xf0, 0, 0, 0, 0, 0, 0, 0, 0, 0, 0, 0, 0, 0, 0, 0] 4 = true := by decide

/-- A hash with four leading zero bits fails at 4 (R150, 90_conflicts.md C1). -/
theorem lzpred_low_nibble_nonzero : lzpred #v[0x0f, 0, 0, 0, 0, 0, 0, 0, 0, 0, 0, 0, 0, 0, 0, 0] 4 = false := by decide

/-- Settles O33: the two tests of the predicate, its corner cases from them, and the two examples. -/
theorem leadingZeroPredicateTestsLowBits : Obligations.LeadingZeroPredicateTestsLowBits :=
  ⟨lzpred_iff, lzpred_zero, lzpred_128_iff, lzpred_low_nibble_zero, lzpred_low_nibble_nonzero⟩

end Sys2Proof.Machine
end

section
/-! The comparator as equality (42_digest_verify.md R140), and with it the two checks of `powverify` (43_pow_engine.md
R157). -/

namespace Sys2Proof.Machine

/-- An accumulator of differences is zero exactly when it started at zero and every pair agrees (R140). -/
theorem foldl_or_xor_eq_zero_iff (c : Byte) (l : List (Byte × Byte)) :
    l.foldl (fun acc p => acc ||| (p.1 ^^^ p.2)) c = 0 ↔ c = 0 ∧ ∀ p ∈ l, p.1 = p.2 := by
  induction l generalizing c with
  | nil => simp
  | cons p l ih =>
    have hstep : c ||| (p.1 ^^^ p.2) = 0 ↔ c = 0 ∧ p.1 = p.2 :=
      BitVec.or_eq_zero_iff.trans (and_congr_right' BitVec.xor_eq_zero_iff)
    rw [List.foldl_cons, ih, List.forall_mem_cons, hstep, and_assoc]

/-- The comparator tests equality (R140). -/
@[simp] theorem cteq_eq_true_iff (a b : Hash) : cteq a b = true ↔ a = b := by
  have hlen : a.toList.length = b.toList.length := by simp
  calc cteq a b = true
      ↔ ∀ p ∈ a.toList.zip b.toList, p.1 = p.2 := by
        simp only [cteq, cteqAcc, decide_eq_true_eq, foldl_or_xor_eq_zero_iff, true_and]
    _ ↔ List.Forall₂ (· = ·) a.toList b.toList := by simp [List.forall₂_iff_zip, hlen]
    _ ↔ a = b := by rw [List.forall₂_eq_eq_eq, Vector.toList_inj]

/-- Settles O45: `powverify` is the conjunction of the comparator, which tests equality, and the predicate. -/
theorem powVerifyNeedsBothChecks : Obligations.PowVerifyNeedsBothChecks := by
  intro P data n d exp
  rw [powverify, Bool.and_eq_true, cteq_eq_true_iff]

end Sys2Proof.Machine
end

section
/-! The errors a command raises before it does anything (60_exceptions.md): E_PHASE (R174), E_DIFF (R175) and E_LEN (R176),
each with the command's own condition for it, and E_EXHAUST (R177), which ends the last attempt of a MINE. -/

namespace Sys2Proof.Machine

theorem exec_update_eq (data : List Byte) (s : State) :
    exec (.update data) s = execUpdateWith Config.params data s := rfl
theorem exec_hash_eq (data : List Byte) (s : State) : exec (.hash data) s = execHashWith Config.params data s := rfl
theorem exec_vdigest_eq (exp : Hash) (data : List Byte) (s : State) :
    exec (.vdigest exp data) s = execVdigestWith Config.params exp data s := rfl
theorem exec_mine_eq (d : Byte) (data : List Byte) (s : State) :
    exec (.mine d data) s = execMineWith Config.params d data s := rfl
theorem exec_vpow_eq (d : Byte) (nonce : Dword) (exp : Hash) (data : List Byte) (s : State) :
    exec (.vpow d nonce exp data) s = execVpowWith Config.params d nonce exp data s := rfl
theorem exec_lzchk_eq (d : Byte) (h : Hash) (s : State) : exec (.lzchk d h) s = execLzchk d h s := rfl

/-- An outcome has one next state. -/
theorem next_state_unique {r : Result} {t t' : State} (h : r = .next t) (h' : r = .next t') : t = t' :=
  Host.Outcome.next.inj (h.symm.trans h')

/-! ### E_PHASE -/

theorem exec_update_of_phase_fin {s : State} (data : List Byte) (h : s.phase = .fin) :
    exec (.update data) s = .next (s.raise .phase) := by
  rw [exec_update_eq]
  obtain ⟨_, e⟩ | ⟨hne, _⟩ | ⟨hne, _⟩ := execUpdateWith_cases Config.params data s
  · exact e
  · exact absurd h hne
  · exact absurd h hne

theorem exec_final_of_phase_fin {s : State} (h : s.phase = .fin) : exec .final s = .next (s.raise .phase) := by
  rw [exec_final_eq]
  obtain ⟨_, e⟩ | ⟨hne, _⟩ := execFinalWith_cases Config.params s
  · exact e
  · exact absurd h hne

/-- Settles O27: in PHASE = FIN both commands raise E_PHASE. -/
theorem finalizedEngineIsNotReused : Obligations.FinalizedEngineIsNotReused := by
  intro s data hfin
  exact ⟨exec_update_of_phase_fin data hfin, exec_final_of_phase_fin hfin⟩

/-! ### How the commands with data or a difficulty end -/

/-- An attempt that ends its MINE ends it with success or with E_EXHAUST (R153, R177). -/
theorem State.attempt_err {P : Params} {j : Search} {s : State} (h : (s.attempt P j).busy = false) :
    (s.attempt P j).err = .ok ∨ (s.attempt P j).err = .exhaust := by
  obtain ⟨_, e⟩ | ⟨_, _, e⟩ | ⟨_, _, e⟩ := s.attempt_cases P j
  · exact .inl (by rw [e]; rfl)
  · exact .inr (by rw [e]; rfl)
  · simp [e] at h

theorem exec_update_err {data : List Byte} {s t : State} (h : exec (.update data) s = .next t) :
    t.err = .phase ∨ (2 ^ 61 ≤ s.total.toNat + data.length ∧ t.err = .len) ∨ t.err = .ok := by
  rw [exec_update_eq] at h
  obtain ⟨_, e⟩ | ⟨_, hlong, e⟩ | ⟨_, _, e⟩ := execUpdateWith_cases Config.params data s <;>
    obtain rfl := next_state_unique h e
  · exact .inl rfl
  · exact .inr (.inl ⟨hlong, rfl⟩)
  · exact .inr (.inr rfl)

theorem exec_hash_err {data : List Byte} {s t : State} (h : exec (.hash data) s = .next t) :
    (2 ^ 61 ≤ data.length ∧ t.err = .len) ∨ (data.length < 2 ^ 61 ∧ t.err = .ok) := by
  rw [exec_hash_eq] at h
  obtain ⟨hlong, e⟩ | ⟨hfits, e⟩ := execHashWith_cases Config.params data s <;> obtain rfl := next_state_unique h e
  · exact .inl ⟨hlong, rfl⟩
  · exact .inr ⟨hfits, rfl⟩

theorem exec_vdigest_err {exp : Hash} {data : List Byte} {s t : State} (h : exec (.vdigest exp data) s = .next t) :
    (2 ^ 61 ≤ data.length ∧ t.err = .len) ∨ (data.length < 2 ^ 61 ∧ t.err = .ok) := by
  rw [exec_vdigest_eq] at h
  obtain ⟨hlong, e⟩ | ⟨hfits, e⟩ := execVdigestWith_cases Config.params exp data s <;>
    obtain rfl := next_state_unique h e
  · exact .inl ⟨hlong, rfl⟩
  · exact .inr ⟨hfits, rfl⟩

/-- How a MINE that ends in its first step ends: the difficulty is tested first, then the length (R175, R176, R178). -/
theorem exec_mine_err {d : Byte} {data : List Byte} {s t : State} (h : exec (.mine d data) s = .next t)
    (hidle : t.busy = false) :
    (128 < d.toNat ∧ t.err = .diff) ∨ (d.toNat ≤ 128 ∧ 2 ^ 61 ≤ data.length + 8 ∧ t.err = .len) ∨
      (d.toNat ≤ 128 ∧ data.length + 8 < 2 ^ 61 ∧ (t.err = .ok ∨ t.err = .exhaust)) := by
  rw [exec_mine_eq] at h
  obtain ⟨hd, e⟩ | ⟨hd, hlong, e⟩ | ⟨hd, hfits, e⟩ := execMineWith_cases Config.params d data s <;>
    obtain rfl := next_state_unique h e
  · exact .inl ⟨hd, rfl⟩
  · exact .inr (.inl ⟨hd, hlong, rfl⟩)
  · exact .inr (.inr ⟨hd, hfits, State.attempt_err hidle⟩)

/-- How a VPOW ends: the difficulty is tested first, then the length (R175, R176, R178). -/
theorem exec_vpow_err {d : Byte} {nonce : Dword} {exp : Hash} {data : List Byte} {s t : State}
    (h : exec (.vpow d nonce exp data) s = .next t) :
    (128 < d.toNat ∧ t.err = .diff) ∨ (d.toNat ≤ 128 ∧ 2 ^ 61 ≤ data.length + 8 ∧ t.err = .len) ∨
      (d.toNat ≤ 128 ∧ data.length + 8 < 2 ^ 61 ∧ t.err = .ok) := by
  rw [exec_vpow_eq] at h
  obtain ⟨hd, e⟩ | ⟨hd, hlong, e⟩ | ⟨hd, hfits, e⟩ := execVpowWith_cases Config.params d nonce exp data s <;>
    obtain rfl := next_state_unique h e
  · exact .inl ⟨hd, rfl⟩
  · exact .inr (.inl ⟨hd, hlong, rfl⟩)
  · exact .inr (.inr ⟨hd, hfits, rfl⟩)

theorem exec_lzchk_err {d : Byte} {x : Hash} {s t : State} (h : exec (.lzchk d x) s = .next t) :
    (128 < d.toNat ∧ t.err = .diff) ∨ (d.toNat ≤ 128 ∧ t.err = .ok) := by
  rw [exec_lzchk_eq] at h
  obtain ⟨hd, e⟩ | ⟨hd, e⟩ := execLzchk_cases d x s <;> obtain rfl := next_state_unique h e
  · exact .inl ⟨hd, rfl⟩
  · exact .inr ⟨hd, rfl⟩

/-! ### E_DIFF -/

theorem exec_mine_of_difficulty {d : Byte} (data : List Byte) (s : State) (h : 128 < d.toNat) :
    exec (.mine d data) s = .next (s.raise .diff) := by
  rw [exec_mine_eq]
  obtain ⟨_, e⟩ | ⟨hd, _⟩ | ⟨hd, _⟩ := execMineWith_cases Config.params d data s
  · exact e
  · omega
  · omega

theorem exec_vpow_of_difficulty {d : Byte} (nonce : Dword) (exp : Hash) (data : List Byte) (s : State)
    (h : 128 < d.toNat) : exec (.vpow d nonce exp data) s = .next (s.raise .diff) := by
  rw [exec_vpow_eq]
  obtain ⟨_, e⟩ | ⟨hd, _⟩ | ⟨hd, _⟩ := execVpowWith_cases Config.params d nonce exp data s
  · exact e
  · omega
  · omega

theorem exec_lzchk_of_difficulty {d : Byte} (x : Hash) (s : State) (h : 128 < d.toNat) :
    exec (.lzchk d x) s = .next (s.raise .diff) := by
  rw [exec_lzchk_eq]
  obtain ⟨_, e⟩ | ⟨hd, _⟩ := execLzchk_cases d x s
  · exact e
  · omega

/-- Settles O36: above 128 each command raises E_DIFF, and how each can end leaves no E_DIFF at or below 128. -/
theorem difficultyAbove128IsRefused : Obligations.DifficultyAbove128IsRefused := by
  intro d s data nonce x
  refine ⟨fun habove => ⟨exec_mine_of_difficulty data s habove, exec_vpow_of_difficulty nonce x data s habove,
    exec_lzchk_of_difficulty x s habove⟩, fun hlegal t hidle hexec => ?_⟩
  obtain h | h | h := hexec
  · have := exec_mine_err h hidle
    grind
  · have := exec_vpow_err h
    grind
  · have := exec_lzchk_err h
    grind

/-! ### E_LEN -/

theorem exec_update_of_tooLong {data : List Byte} {s : State} (hphase : s.phase ≠ .fin)
    (h : 2 ^ 61 ≤ s.total.toNat + data.length) : exec (.update data) s = .next (s.raise .len) := by
  rw [exec_update_eq]
  obtain ⟨hfin, _⟩ | ⟨_, _, e⟩ | ⟨_, hfits, _⟩ := execUpdateWith_cases Config.params data s
  · exact absurd hfin hphase
  · exact e
  · omega

theorem exec_hash_of_tooLong {data : List Byte} (s : State) (h : 2 ^ 61 ≤ data.length) :
    exec (.hash data) s = .next (s.raise .len) := by
  rw [exec_hash_eq]
  obtain ⟨_, e⟩ | ⟨hfits, _⟩ := execHashWith_cases Config.params data s
  · exact e
  · omega

theorem exec_vdigest_of_tooLong (exp : Hash) {data : List Byte} (s : State) (h : 2 ^ 61 ≤ data.length) :
    exec (.vdigest exp data) s = .next (s.raise .len) := by
  rw [exec_vdigest_eq]
  obtain ⟨_, e⟩ | ⟨hfits, _⟩ := execVdigestWith_cases Config.params exp data s
  · exact e
  · omega

theorem exec_mine_of_tooLong {d : Byte} {data : List Byte} (s : State) (hd : d.toNat ≤ 128)
    (h : 2 ^ 61 ≤ data.length + 8) : exec (.mine d data) s = .next (s.raise .len) := by
  rw [exec_mine_eq]
  obtain ⟨habove, _⟩ | ⟨_, _, e⟩ | ⟨_, hfits, _⟩ := execMineWith_cases Config.params d data s
  · omega
  · exact e
  · omega

theorem exec_vpow_of_tooLong {d : Byte} (nonce : Dword) (exp : Hash) {data : List Byte} (s : State)
    (hd : d.toNat ≤ 128) (h : 2 ^ 61 ≤ data.length + 8) :
    exec (.vpow d nonce exp data) s = .next (s.raise .len) := by
  rw [exec_vpow_eq]
  obtain ⟨habove, _⟩ | ⟨_, _, e⟩ | ⟨_, hfits, _⟩ := execVpowWith_cases Config.params d nonce exp data s
  · omega
  · exact e
  · omega

/-- Settles O28: at 2^61 each command raises E_LEN, and how each can end leaves no E_LEN below it. -/
theorem tooLongMessageIsRefused : Obligations.TooLongMessageIsRefused := by
  intro s data exp nonce d
  refine ⟨exec_update_of_tooLong,
    fun hlong => ⟨exec_hash_of_tooLong s hlong, exec_vdigest_of_tooLong exp s hlong⟩,
    fun hd hlong => ⟨exec_mine_of_tooLong s hd hlong, exec_vpow_of_tooLong nonce exp s hd hlong⟩,
    fun t hidle hlen => ⟨fun h => ?update, fun h => ?digest, fun h => ?pow⟩⟩
  case update =>
    have := exec_update_err h
    grind
  case digest =>
    have := h.imp exec_hash_err exec_vdigest_err
    grind
  case pow =>
    have := h.imp (exec_mine_err · hidle) exec_vpow_err
    grind

/-! ### E_EXHAUST -/

theorem continueSearchWith_of_search (P : Params) {s : State} {j : Search} (h : s.search = some j) :
    continueSearchWith P s = .next (s.attempt P j) := by
  obtain ⟨hnone, _⟩ | ⟨j', hj', e⟩ := continueSearchWith_cases P s
  · simp [h] at hnone
  · obtain rfl : j = j' := by simpa [h] using hj'
    exact e

theorem State.attempt_of_exhausted {P : Params} {j : Search} {s : State}
    (hfail : lzpred (powhash P j.data s.nonce) j.difficulty = false) (hlast : s.nonce = BitVec.allOnes 64) :
    s.attempt P j = ((s.setCtx (spentCtx (powhash P j.data s.nonce) j.data)).setPhase .fin).raise .exhaust := by
  obtain ⟨hpass, _⟩ | ⟨_, _, e⟩ | ⟨_, hne, _⟩ := s.attempt_cases P j
  · simp [hfail] at hpass
  · exact e
  · exact absurd hlast hne

/-- Settles O41: the busy block makes one attempt, and the failed one at the last nonce raises E_EXHAUST. -/
theorem exhaustedSearchEnds : Obligations.ExhaustedSearchEnds := by
  intro P s j _ hsearch hnonce hfail
  have hlast : s.nonce = BitVec.allOnes 64 := BitVec.eq_of_toNat_eq (by simpa using hnonce)
  rw [continueSearchWith_of_search P hsearch, State.attempt_of_exhausted hfail hlast]
  rfl

end Sys2Proof.Machine
end

section
/-! Frames the decoder rejects (60_exceptions.md): E_ILLOP (R172) and E_FRAME (R173), and the step that consumes such a
frame. -/

namespace Sys2Proof

open Machine

/-- The reserved opcode bytes (30_encoding.md R79, R80). -/
theorem opcodeOf_eq_none_iff (b : Byte) : opcodeOf b = none ↔ b.toNat = 0 ∨ 0x0B ≤ b.toNat := by
  unfold opcodeOf
  split <;> simp only [reduceCtorEq, imp_false, false_iff, true_iff] at * <;> omega

/-- Each opcode byte selects its own command (R79). -/
@[simp] theorem opcodeOf_code (op : Opcode) : opcodeOf op.code = some op := by cases op <;> rfl

@[simp] theorem decode_nil : decode [] = .rejected .emptyFrame := rfl

theorem decode_of_reserved {b : Byte} (bs : List Byte) (h : opcodeOf b = none) :
    decode (b :: bs) = .rejected (.reservedOpcode b) := by
  simp only [decode, h]

theorem decode_of_badLength {op : Opcode} {bs : List Byte} (h : lengthOk op (bs.length + 1) = false) :
    decode (op.code :: bs) = .rejected (.badLength op (bs.length + 1)) := by
  simp [decode, h]

/-- Without a data operand one length is legal (30_encoding.md R74). -/
theorem lengthOk_eq_false_of_fixed {op : Opcode} {n : Nat} (hop : op.carriesData = false) (h : n ≠ op.fixedLength) :
    lengthOk op n = false := by
  simp [lengthOk, hop, h]

/-- With a data operand a frame shorter than the fixed part is illegal (R74). -/
theorem lengthOk_eq_false_of_data {op : Opcode} {n : Nat} (hop : op.carriesData = true) (h : n < op.fixedLength) :
    lengthOk op n = false := by
  simp [lengthOk, hop, h]

namespace Machine

theorem step_of_sampleReset_low {s u : State} (h : s.sampleReset = (false, u)) : step s = stepRunning u := by
  simp only [step, h]

theorem stepRunning_of_frame {u : State} {F : Frame} {rest : List Frame} (hidle : u.busy = false)
    (hframes : u.frames = F :: rest) : stepRunning u = retireOutcome (execute F { u with frames := rest }) := by
  obtain ⟨hbusy, _⟩ | ⟨_, hnil, _⟩ | ⟨F', rest', _, hcons, e⟩ := stepRunning_cases u
  · simp [hidle] at hbusy
  · simp [hframes] at hnil
  · obtain ⟨rfl, rfl⟩ : F = F' ∧ rest = rest' := by simpa [hframes] using hcons
    exact e

theorem execute_of_rejected {F : Frame} {e : DecodeError} (s : State) (h : decode F = .rejected e) :
    execute F s = .next (s.accept.raise (rejectionError e)) := by
  obtain ⟨i, hi, _⟩ | ⟨e', he', heq⟩ := execute_cases F s
  · simp [h] at hi
  · obtain rfl : e = e' := by simpa [h] using he'
    exact heq

/-- An idle block that accepts a frame and raises an error changes RESULT and ERR, and its index advances (R171, R27). -/
theorem State.retire_raise_accept_of_idle {s : State} (e : ErrCode) (hidle : s.busy = false)
    (hsearch : s.search = none) :
    (s.accept.raise e).retire = { s with pc := s.pc + 1, result := false, err := e } := by
  cases s
  cases hidle
  cases hsearch
  rfl

/-- The step that rejects a frame: it is consumed, RESULT and ERR are set, nothing else changes (R171 to R173). -/
theorem step_of_rejected {s u : State} {F : Frame} {rest : List Frame} {e : DecodeError}
    (hlow : s.sampleReset = (false, u)) (hidle : u.busy = false) (hsearch : u.search = none)
    (hframes : u.frames = F :: rest) (hrej : decode F = .rejected e) :
    step s = .next { u with frames := rest, pc := u.pc + 1, result := false, err := rejectionError e } := by
  rw [step_of_sampleReset_low hlow, stepRunning_of_frame hidle hframes, execute_of_rejected _ hrej,
    retireOutcome_next]
  exact congrArg Host.Outcome.next
    (State.retire_raise_accept_of_idle (s := { u with frames := rest }) (rejectionError e) hidle hsearch)

/-- Settles O4: the decoder rejects both kinds of frame with an error that stands for E_ILLOP. -/
theorem reservedOpcodeIsRefused : Obligations.ReservedOpcodeIsRefused := by
  intro s u F rest hlow hidle hsearch hframes hF
  obtain rfl | ⟨b, bs, rfl, hb⟩ := hF
  · exact step_of_rejected hlow hidle hsearch hframes decode_nil
  · have hreserved : opcodeOf b = none := (opcodeOf_eq_none_iff b).mpr hb
    exact step_of_rejected hlow hidle hsearch hframes (decode_of_reserved bs hreserved)

/-- Settles O5: each clause names an opcode and a length illegal for it, which the decoder rejects. -/
theorem illegalLengthIsRefused : Obligations.IllegalLengthIsRefused := by
  intro s u b bs rest hlow hidle hsearch hframes hbad
  obtain ⟨op, rfl, hlen⟩ : ∃ op : Opcode, b = op.code ∧ lengthOk op (bs.length + 1) = false := by
    obtain ⟨hb | hb, h⟩ | ⟨hb, h⟩ | ⟨hb, h⟩ | ⟨hb, h⟩ | ⟨hb, h⟩ | ⟨hb, h⟩ | ⟨hb, h⟩ := hbad
    · exact ⟨.init, hb, lengthOk_eq_false_of_fixed rfl h⟩
    · exact ⟨.final, hb, lengthOk_eq_false_of_fixed rfl h⟩
    · exact ⟨.compress, hb, lengthOk_eq_false_of_fixed rfl h⟩
    · exact ⟨.cteq, hb, lengthOk_eq_false_of_fixed rfl h⟩
    · exact ⟨.lzchk, hb, lengthOk_eq_false_of_fixed rfl h⟩
    · exact ⟨.vdigest, hb, lengthOk_eq_false_of_data rfl h⟩
    · exact ⟨.mine, hb, lengthOk_eq_false_of_data rfl h⟩
    · exact ⟨.vpow, hb, lengthOk_eq_false_of_data rfl h⟩
  exact step_of_rejected hlow hidle hsearch hframes (decode_of_badLength hlen)

end Machine
end Sys2Proof
end

section
/-! The decoder and the encoder undo each other (30_encoding.md R70 to R79): an operand is read from the place where it
was written, and the operands read from a frame of a legal length are the whole of it after the opcode byte. -/

namespace Sys2Proof

open Machine

namespace Machine

/-! ### le64 and LE64 (00_scope.md R10) -/

/-- LE64 reads back what le64 wrote. -/
@[simp] theorem dword64_le64 (n : Dword) : dword64 (le64 n) = n := by
  have hn := n.isLt
  apply BitVec.eq_of_toNat_eq
  simp only [dword64, le64, leNat_cons, leNat_nil, BitVec.toNat_ofNat, BitVec.extractLsb'_toNat,
    Nat.shiftRight_eq_div_pow]
  omega

/-- Byte k of `le64(n)` is n[8k+7:8k]. -/
theorem le64_getElem? (n : Dword) (k : Fin 8) : (le64 n)[k.val]? = some (n.extractLsb' (8 * k.val) 8) := by
  match k with
  | 0 | 1 | 2 | 3 | 4 | 5 | 6 | 7 => rfl

/-- Settles O12: the length, the read-back and the bytes of `le64`. -/
theorem le64RoundTrip : Obligations.Le64RoundTrip :=
  fun n => ⟨le64_length n, dword64_le64 n, le64_getElem? n⟩

theorem leNat_lt (l : List Byte) : leNat l < 256 ^ l.length := by
  induction l with
  | nil => simp
  | cons b l ih =>
    have hb := b.isLt
    rw [leNat_cons, List.length_cons, Nat.pow_succ]
    omega

/-- Byte k of a byte string, from the number it stands for. -/
theorem leNat_div_mod (l : List Byte) (k : Nat) (hk : k < l.length) :
    leNat l / 2 ^ (8 * k) % 2 ^ 8 = l[k].toNat := by
  induction l generalizing k with
  | nil => simp at hk
  | cons b l ih =>
    have hb := b.isLt
    cases k with
    | zero => simp; omega
    | succ k =>
      have htail : (b.toNat + 256 * leNat l) / 256 = leNat l := by omega
      have hpow : 2 ^ (8 * (k + 1)) = 256 * 2 ^ (8 * k) := by ring
      rw [leNat_cons, hpow, ← Nat.div_div_eq_div_mul, htail, List.getElem_cons_succ]
      exact ih k (by simpa using hk)

/-- le64 writes back the eight bytes that LE64 read. -/
theorem le64_dword64 {l : List Byte} (h : l.length = 8) : le64 (dword64 l) = l := by
  have hlt : leNat l < 2 ^ 64 := by simpa [h] using leNat_lt l
  apply List.ext_getElem (by simp [h])
  intro k hk _
  rw [← Option.some_inj, ← List.getElem?_eq_getElem, le64_getElem? _ ⟨k, by simpa using hk⟩, Option.some_inj]
  apply BitVec.eq_of_toNat_eq
  rw [BitVec.extractLsb'_toNat, Nat.shiftRight_eq_div_pow, ← leNat_div_mod l k (by omega), dword64,
    BitVec.toNat_ofNat, Nat.mod_eq_of_lt hlt]

/-! ### Operands at their offsets (R75 to R78) -/

/-- A substring stands between what precedes it and what follows it. -/
theorem slice_append_append (pre : List Byte) {i : Nat} (hi : pre.length = i) (l : List Byte) {j : Nat}
    (hj : i + l.length = j) (post : List Byte) : slice (pre ++ (l ++ post)) i j = l := by
  subst hi hj
  simp [slice]

theorem hashOperand_append (pre : List Byte) {k : Nat} (hk : pre.length = k) (v : Hash) (post : List Byte) :
    hashOperand (pre ++ (v.toList ++ post)) k = v := by
  rw [hashOperand, slice_append_append pre hk v.toList (by simp), toVec_vector_toList]

theorem chunkOperand_append (pre : List Byte) (hpre : pre.length = 17) (v : Chunk) (post : List Byte) :
    chunkOperand (pre ++ (v.toList ++ post)) = v := by
  rw [chunkOperand, slice_append_append pre hpre v.toList (by simp), toVec_vector_toList]

theorem nonceOperand_append (pre : List Byte) (hpre : pre.length = 2) (n : Dword) (post : List Byte) :
    nonceOperand (pre ++ (le64 n ++ post)) = n := by
  rw [nonceOperand, slice_append_append pre hpre (le64 n) (by simp), dword64_le64]

/-- A substring and the rest after it are the rest from where it starts. -/
theorem slice_append_drop (F : List Byte) {i j : Nat} (h : i ≤ j) : slice F i j ++ F.drop j = F.drop i := by
  obtain ⟨n, rfl⟩ := Nat.exists_eq_add_of_le h
  rw [slice, Nat.add_sub_cancel_left, ← List.drop_drop, List.take_append_drop]

theorem hashOperand_toList {F : Frame} {k : Nat} (h : k + 16 ≤ F.length) :
    (hashOperand F k).toList = slice F k (k + 16) :=
  toVec_toList (by rw [slice_length]; omega)

theorem chunkOperand_toList {F : Frame} (h : 81 ≤ F.length) : (chunkOperand F).toList = slice F 17 81 :=
  toVec_toList (by rw [slice_length]; omega)

theorem le64_nonceOperand {F : Frame} (h : 10 ≤ F.length) : le64 (nonceOperand F) = slice F 2 10 :=
  le64_dword64 (by rw [slice_length]; omega)

theorem difficultyOperand_cons {F : Frame} (h : 2 ≤ F.length) : difficultyOperand F :: F.drop 2 = F.drop 1 := by
  rw [difficultyOperand, List.getD_eq_getElem _ _ (by omega), List.getElem_cons_drop]

end Machine

/-! ### Decoding what was encoded -/

theorem decode_of_lengthOk {op : Opcode} {bs : List Byte} (h : lengthOk op (bs.length + 1) = true) :
    decode (op.code :: bs) = .command (fetchOperands op (op.code :: bs)) := by
  simp [decode, h]

/-- The frame of every command has a legal length (R72, R74). -/
theorem lengthOk_encode (i : Instr) : lengthOk i.opcode (encode i).length = true := by
  cases i with
  | init => exact Laws.FrameLegal.init
  | update data => exact Laws.FrameLegal.update data
  | final => exact Laws.FrameLegal.final
  | hash data => exact Laws.FrameLegal.hash data
  | vdigest exp data => exact Laws.FrameLegal.vdigest exp data
  | mine d data => exact Laws.FrameLegal.mine d data
  | vpow d nonce exp data => exact Laws.FrameLegal.vpow d nonce exp data
  | compress st m => exact Laws.FrameLegal.compress st m
  | cteq a b => exact Laws.FrameLegal.cteq a b
  | lzchk d h => exact Laws.FrameLegal.lzchk d h

/-- Each operand is read from the place where the encoder wrote it (R72, R75 to R78). -/
theorem fetchOperands_encode (i : Instr) : fetchOperands i.opcode (encode i) = i := by
  cases i with
  | init | update | final | hash | mine => rfl
  | vdigest exp data =>
    have hexp : hashOperand (encode (.vdigest exp data)) 1 = exp := hashOperand_append [_] rfl exp data
    have hdata : dataOperand (encode (.vdigest exp data)) 17 = data := by
      simp [dataOperand, encode, encodeOperands]
    simp only [Instr.opcode, fetchOperands, hexp, hdata]
  | vpow d nonce exp data =>
    have hnonce : nonceOperand (encode (.vpow d nonce exp data)) = nonce := by
      rw [encode, encodeOperands, List.append_assoc]
      exact nonceOperand_append [_, d] rfl nonce (exp.toList ++ data)
    have hexp : hashOperand (encode (.vpow d nonce exp data)) 10 = exp := by
      rw [encode, encodeOperands, List.append_assoc]
      exact hashOperand_append (_ :: d :: le64 nonce) rfl exp data
    have hdata : dataOperand (encode (.vpow d nonce exp data)) 26 = data := by
      simp [dataOperand, encode, encodeOperands, List.drop_append]
    simp only [Instr.opcode, fetchOperands, hnonce, hexp, hdata]
    rfl
  | compress st m =>
    have hst : hashOperand (encode (.compress st m)) 1 = st := hashOperand_append [_] rfl st m.toList
    have hm : chunkOperand (encode (.compress st m)) = m := by
      have h := chunkOperand_append (Opcode.compress.code :: st.toList) (by simp) m []
      rwa [List.append_nil] at h
    simp only [Instr.opcode, fetchOperands, hst, hm]
  | cteq a b =>
    have ha : hashOperand (encode (.cteq a b)) 1 = a := hashOperand_append [_] rfl a b.toList
    have hb : hashOperand (encode (.cteq a b)) 17 = b := by
      have h := hashOperand_append (Opcode.cteq.code :: a.toList) (k := 17) (by simp) b []
      rwa [List.append_nil] at h
    simp only [Instr.opcode, fetchOperands, ha, hb]
  | lzchk d x =>
    have hx : hashOperand (encode (.lzchk d x)) 2 = x := by
      have h := hashOperand_append [Opcode.lzchk.code, d] (k := 2) rfl x []
      rwa [List.append_nil] at h
    simp only [Instr.opcode, fetchOperands, hx]
    rfl

theorem decode_encode (i : Instr) : decode (encode i) = .command i := by
  have hcommand := decode_of_lengthOk (op := i.opcode) (bs := encodeOperands i) (lengthOk_encode i)
  rwa [← encode, fetchOperands_encode] at hcommand

/-- Settles O1: the frame of a command has a legal length, and its operands are read back. -/
theorem decodeInvertsEncode : Obligations.DecodeInvertsEncode := decode_encode

theorem decode_of_encode_eq {F : Frame} {i : Instr} (h : encode i = F) : decode F = .command i := by
  rw [← h, decode_encode]

/-- Settles O3: each written-out frame is the frame of its command. -/
theorem writtenOutFramesDecode : Obligations.WrittenOutFramesDecode :=
  ⟨decode_of_encode_eq rfl, decode_of_encode_eq rfl, decode_of_encode_eq rfl, decode_of_encode_eq rfl,
    decode_of_encode_eq rfl, decode_of_encode_eq rfl, decode_of_encode_eq rfl, decode_of_encode_eq rfl,
    decode_of_encode_eq rfl, decode_of_encode_eq rfl⟩

/-! ### Encoding what was decoded -/

/-- An opcode byte that selects a command is that command's (R79). -/
theorem eq_code_of_opcodeOf {b : Byte} {op : Opcode} (h : opcodeOf b = some op) : b = op.code := by
  apply BitVec.eq_of_toNat_eq
  unfold opcodeOf at h
  split at h
  case h_11 => cases h
  all_goals
    obtain rfl := Option.some_inj.mp h
    assumption

/-- A frame that decodes is an opcode byte with operands of a legal length, which are fetched (R71). -/
theorem exists_of_decode_eq_command {F : Frame} {i : Instr} (h : decode F = .command i) :
    ∃ op bs, F = op.code :: bs ∧ lengthOk op F.length = true ∧ i = fetchOperands op F := by
  cases F with
  | nil => simp at h
  | cons b bs =>
    cases hop : opcodeOf b with
    | none => simp [decode_of_reserved bs hop] at h
    | some op =>
      obtain rfl := eq_code_of_opcodeOf hop
      cases hlen : lengthOk op (bs.length + 1) with
      | false => simp [decode_of_badLength hlen] at h
      | true =>
        rw [decode_of_lengthOk hlen] at h
        exact ⟨op, bs, rfl, hlen, (Decoded.command.inj h).symm⟩

theorem fetchOperands_opcode (op : Opcode) (F : Frame) : (fetchOperands op F).opcode = op := by cases op <;> rfl

/-- Without a data operand the one legal length is that of the fixed part (R74). -/
theorem length_of_lengthOk_fixed {op : Opcode} {n : Nat} (hop : op.carriesData = false) (h : lengthOk op n = true) :
    n = op.fixedLength := by
  simpa [lengthOk, hop] using h

/-- With a data operand a legal frame holds the fixed part (R74). -/
theorem le_length_of_lengthOk_data {op : Opcode} {n : Nat} (hop : op.carriesData = true)
    (h : lengthOk op n = true) : op.fixedLength ≤ n := by
  simpa [lengthOk, hop] using h

/-- The operands fetched from a frame of a legal length are all its bytes after the opcode (R70, R72). -/
theorem encodeOperands_fetchOperands {op : Opcode} {F : Frame} (h : lengthOk op F.length = true) :
    encodeOperands (fetchOperands op F) = F.drop 1 := by
  cases op with
  | init | final =>
    have hlen : F.length = 1 := length_of_lengthOk_fixed rfl h
    exact (List.drop_eq_nil_of_le hlen.le).symm
  | update | hash => rfl
  | vdigest =>
    have hlen : 17 ≤ F.length := le_length_of_lengthOk_data rfl h
    simp only [fetchOperands, encodeOperands, dataOperand]
    rw [hashOperand_toList (by omega), slice_append_drop F (by omega)]
  | mine =>
    have hlen : 2 ≤ F.length := le_length_of_lengthOk_data rfl h
    exact difficultyOperand_cons hlen
  | vpow =>
    have hlen : 26 ≤ F.length := le_length_of_lengthOk_data rfl h
    simp only [fetchOperands, encodeOperands, dataOperand]
    rw [le64_nonceOperand (by omega), hashOperand_toList (by omega), List.append_assoc,
      slice_append_drop F (by omega), slice_append_drop F (by omega), difficultyOperand_cons (by omega)]
  | compress =>
    have hlen : F.length = 81 := length_of_lengthOk_fixed rfl h
    have hend : F.drop 81 = [] := List.drop_eq_nil_of_le hlen.le
    simp only [fetchOperands, encodeOperands]
    rw [hashOperand_toList (by omega), chunkOperand_toList (by omega), ← List.append_nil (slice F 17 81), ← hend,
      slice_append_drop F (by omega), slice_append_drop F (by omega)]
  | cteq =>
    have hlen : F.length = 33 := length_of_lengthOk_fixed rfl h
    have hend : F.drop 33 = [] := List.drop_eq_nil_of_le hlen.le
    simp only [fetchOperands, encodeOperands]
    rw [hashOperand_toList (by omega), hashOperand_toList (by omega), ← List.append_nil (slice F 17 _), ← hend,
      slice_append_drop F (by omega), slice_append_drop F (by omega)]
  | lzchk =>
    have hlen : F.length = 18 := length_of_lengthOk_fixed rfl h
    have hend : F.drop 18 = [] := List.drop_eq_nil_of_le hlen.le
    simp only [fetchOperands, encodeOperands]
    rw [hashOperand_toList (by omega), ← List.append_nil (slice F 2 _), ← hend, slice_append_drop F (by omega),
      difficultyOperand_cons (by omega)]

/-- Settles O2: the opcode byte is the command's, and the operands are the rest of the frame. -/
theorem encodeInvertsDecode : Obligations.EncodeInvertsDecode := by
  intro F i h
  obtain ⟨op, bs, rfl, hlen, rfl⟩ := exists_of_decode_eq_command h
  rw [encode, fetchOperands_opcode, encodeOperands_fetchOperands hlen, List.drop_one, List.tail_cons]

end Sys2Proof
end

section
/-! The step (10_state.md R20, R27, R31; 30_encoding.md R71): which rule runs when the reset input is low, and the step
that samples it asserted (70_reset_and_hazards.md R200). -/

namespace Sys2Proof.Machine

/-! ### An idle block -/

theorem execute_of_command {F : Frame} {i : Instr} (s : State) (h : decode F = .command i) :
    execute F s = exec i s.accept := by
  obtain ⟨i', hi', e⟩ | ⟨e', he', _⟩ := execute_cases F s
  · obtain rfl : i = i' := by simpa [h] using hi'
    exact e
  · simp [h] at he'

/-- The step of an idle block whose next frame decodes. -/
theorem step_of_command {s u : State} {F : Frame} {rest : List Frame} {i : Instr} (hlow : s.sampleReset = (false, u))
    (hidle : u.busy = false) (hframes : u.frames = F :: rest) (hdec : decode F = .command i) :
    step s = retireOutcome (exec i { u with frames := rest, busy := true }) := by
  rw [step_of_sampleReset_low hlow, stepRunning_of_frame hidle hframes, execute_of_command _ hdec]
  rfl

/-- Settles O6: the step executes the frame, and `retire` advances the index of a command that has completed. -/
theorem stepRunsDecodedCommand : Obligations.StepRunsDecodedCommand := by
  intro s u F rest i hlow hidle hframes hdec
  rw [step_of_command hlow hidle hframes hdec]
  cases exec i { u with frames := rest, busy := true } with
  | next | fault | refused => rfl

/-- Settles O8: of the three rules of a running block, the one without a frame. -/
theorem idleBlockStays : Obligations.IdleBlockStays := by
  intro s u hlow hidle hnil
  rw [step_of_sampleReset_low hlow]
  obtain ⟨hbusy, _⟩ | ⟨_, _, e⟩ | ⟨F, rest, _, hcons, _⟩ := stepRunning_cases u
  · simp [hidle] at hbusy
  · exact e
  · simp [hnil] at hcons

/-! ### A busy block -/

theorem stepRunning_of_search {u : State} {j : Search} (hbusy : u.busy = true) (hsearch : u.search = some j) :
    stepRunning u = .next (u.attempt Config.params j).retire := by
  obtain ⟨_, e⟩ | ⟨hidle, _⟩ | ⟨F, rest, hidle, _⟩ := stepRunning_cases u
  · rw [e, continueSearch, continueSearchWith_of_search _ hsearch, retireOutcome_next]
  · simp [hbusy] at hidle
  · simp [hbusy] at hidle

/-- The step of a busy block makes one attempt of its MINE. -/
theorem step_of_search {s u : State} {j : Search} (hlow : s.sampleReset = (false, u)) (hbusy : u.busy = true)
    (hsearch : u.search = some j) : step s = .next (u.attempt Config.params j).retire := by
  rw [step_of_sampleReset_low hlow, stepRunning_of_search hbusy hsearch]

/-- A busy block that has a step has a search in progress. -/
theorem exists_search_of_step {s u t : State} (hlow : s.sampleReset = (false, u)) (hbusy : u.busy = true)
    (h : step s = .next t) : ∃ j, u.search = some j := by
  rw [step_of_sampleReset_low hlow] at h
  obtain ⟨_, e⟩ | ⟨hidle, _⟩ | ⟨F, rest, hidle, _⟩ := stepRunning_cases u
  · obtain ⟨_, efault⟩ | ⟨j, hj, _⟩ := continueSearchWith_cases Config.params u
    · simp [e, continueSearch, efault] at h
    · exact ⟨j, hj⟩
  · simp [hbusy] at hidle
  · simp [hbusy] at hidle

theorem State.sampleReset_setFrames {s u : State} {level : Bool} (fs : List Frame)
    (h : s.sampleReset = (level, u)) :
    ({ s with frames := fs } : State).sampleReset = (level, { u with frames := fs }) := by
  obtain ⟨hr, e⟩ | ⟨_, rest, hr, e⟩ := s.sampleReset_cases <;> rw [h] at e <;> cases e <;>
    simp only [State.sampleReset, hr]

theorem State.sampleReset_frames {s u : State} {level : Bool} (h : s.sampleReset = (level, u)) :
    u.frames = s.frames := by
  obtain ⟨_, e⟩ | ⟨_, _, _, e⟩ := s.sampleReset_cases <;> rw [h] at e <;> cases e <;> rfl

theorem State.attempt_setFrames (P : Params) (j : Search) (s : State) (fs : List Frame) :
    ({ s with frames := fs } : State).attempt P j = { s.attempt P j with frames := fs } := by
  dsimp only [State.attempt]
  split_ifs <;> rfl

@[simp] theorem State.attempt_frames (P : Params) (j : Search) (s : State) : (s.attempt P j).frames = s.frames := by
  obtain ⟨_, e⟩ | ⟨_, _, e⟩ | ⟨_, _, e⟩ := s.attempt_cases P j <;> rw [e] <;> rfl

theorem State.retire_setFrames (s : State) (fs : List Frame) :
    ({ s with frames := fs } : State).retire = { s.retire with frames := fs } := by
  unfold State.retire
  split_ifs <;> rfl

/-- Settles O7: the step of a busy block is an attempt, which neither reads nor writes the frames. -/
theorem busyBlockTakesNoFrame : Obligations.BusyBlockTakesNoFrame := by
  intro s u t fs hlow hbusy h
  obtain ⟨j, hj⟩ := exists_search_of_step hlow hbusy h
  obtain rfl := next_state_unique h (step_of_search hlow hbusy hj)
  constructor
  · simp [State.sampleReset_frames hlow]
  · rw [step_of_search (State.sampleReset_setFrames fs hlow) hbusy hj, State.attempt_setFrames,
      State.retire_setFrames]

/-! ### The reset input -/

theorem step_of_reset {s : State} {rest : List Bool} (h : s.resetIn = true :: rest) :
    step s = .next (State.assertReset Config.params { s with resetIn := rest }) := by
  obtain ⟨rest', h', e⟩ | ⟨_, h', _⟩ | ⟨h', _⟩ := step_cases s
  · obtain rfl : rest = rest' := by simpa [h] using h'
    exact e
  · simp [h] at h'
  · simp [h] at h'

/-- Settles O10: the step is `assertReset`, and each register is one of its lemmas. -/
theorem assertedResetClearsEverything : Obligations.AssertedResetClearsEverything := by
  intro s rest h
  exact ⟨_, step_of_reset h, by simp⟩

end Sys2Proof.Machine
end

section
/-! Facts of one step of the Compressor (40_compressor.md): its rotation (00_scope.md R10), its message-word index (R103)
and its inverse (R109), and the command COMPRESS (R110). -/

namespace Sys2Proof.Machine

/-! ### Rotation -/

/-- A rotation by k is the low 32 - k bits moved up by k, and the high k bits moved down to the place they leave. -/
theorem rotl_toNat (x : Word) {k : Nat} (hk : k < 32) :
    (rotl x k).toNat = (x.toNat * 2 ^ k) % 2 ^ 32 + x.toNat / 2 ^ (32 - k) := by
  have hx := x.isLt
  have hsplit : 2 ^ 32 = 2 ^ (32 - k) * 2 ^ k := by rw [← Nat.pow_add]; congr 1; omega
  have hlow : x.toNat * 2 ^ k % 2 ^ 32 = (x.toNat % 2 ^ (32 - k)) <<< k := by
    rw [hsplit, Nat.mul_mod_mul_right, Nat.shiftLeft_eq]
  have hhigh : x.toNat / 2 ^ (32 - k) < 2 ^ k := Nat.div_lt_of_lt_mul (by omega)
  rw [rotl, BitVec.toNat_rotateLeft, Nat.mod_eq_of_lt hk, Nat.shiftLeft_eq, Nat.shiftRight_eq_div_pow, hlow,
    Nat.shiftLeft_add_eq_or_of_lt hhigh]

/-- Settles O13: the amounts 1 to 31 are below the word width. -/
theorem rotlIsCircularShift : Obligations.RotlIsCircularShift :=
  fun x _ _ hk => rotl_toNat x (by omega)

/-! ### Message-word indices -/

/-- 5, 3 and 7 are units modulo 16 (R103). -/
theorem wordIndex_injective (r : Fin 4) : Function.Injective (wordIndex r) := by
  intro i j h
  have hval := congrArg Fin.val h
  apply Fin.ext
  match r with
  | 0 => exact hval
  | 1 | 2 | 3 => simp only [wordIndex] at hval; omega

/-- Settles O14: the four rows by evaluation, and an injection of the sixteen indices is a bijection. -/
theorem wordIndexTable : Obligations.WordIndexTable :=
  ⟨rfl, rfl, rfl, rfl, fun r => Finite.injective_iff_bijective.mp (wordIndex_injective r)⟩

/-! ### The inverse of a step -/

/-- Rotating on to the full width of the word undoes a rotation. -/
theorem rotl_rotl_cancel (x : Word) {k l : Nat} (hk : 0 < k) (hl : 0 < l) (h : k + l = 32) : rotl (rotl x k) l = x := by
  apply BitVec.eq_of_getLsbD_eq
  intro b hb
  simp only [rotl, BitVec.getLsbD_rotateLeft, Nat.mod_eq_of_lt (show k < 32 by omega),
    Nat.mod_eq_of_lt (show l < 32 by omega)]
  obtain hbl | hbl := lt_or_ge b l
  · have hindex : 32 - l + b - k = b := by omega
    simp [hbl, hindex, show ¬ 32 - l + b < k by omega, show 32 - l + b < 32 by omega]
  · have hindex : 32 - k + (b - l) = b := by omega
    simp [hb, hindex, show ¬ b < l by omega, show b - l < k by omega]

/-- What a step adds to register b, before the rotation (R107). -/
def mixSum (P : Params) (M : Chunk) (r : Fin 4) (i : Fin 16) (b c d : Word) : Word :=
  mixFunction r b c d + messageWord M (wordIndex r i) + stepConstant P r i

theorem mixStep_eq (P : Params) (M : Chunk) (r : Fin 4) (g : Regs) (i : Fin 16) :
    mixStep P M r g i =
      { a := g.d, b := g.b + rotl (g.a + mixSum P M r i g.b g.c g.d) (rotAmount P r i), c := g.b, d := g.c } := by
  simp only [mixStep, mixSum, BitVec.add_assoc]

/-- The step undone (R109): three registers are still there, and register a is what the rotated sum leaves. -/
def unmixStep (P : Params) (M : Chunk) (r : Fin 4) (g : Regs) (i : Fin 16) : Regs :=
  { a := rotl (g.b - g.c) (32 - rotAmount P r i) - mixSum P M r i g.c g.d g.a, b := g.c, c := g.d, d := g.a }

theorem unmixStep_mixStep (P : Params) (M : Chunk) (r : Fin 4) (g : Regs) (i : Fin 16) :
    unmixStep P M r (mixStep P M r g i) i = g := by
  obtain ⟨hpos, hlt⟩ := rotAmount_bounds P r i
  rw [mixStep_eq, unmixStep]
  simp only [add_sub_cancel_left, rotl_rotl_cancel _ (k := rotAmount P r i) (by omega) (by omega)
    (Nat.add_sub_of_le (by omega)), BitVec.add_sub_cancel]

theorem mixStep_unmixStep (P : Params) (M : Chunk) (r : Fin 4) (g : Regs) (i : Fin 16) :
    mixStep P M r (unmixStep P M r g i) i = g := by
  obtain ⟨hpos, hlt⟩ := rotAmount_bounds P r i
  rw [mixStep_eq, unmixStep]
  simp only [BitVec.sub_add_cancel, rotl_rotl_cancel _ (l := rotAmount P r i) (by omega) (by omega)
    (Nat.sub_add_cancel (by omega))]
  rw [BitVec.add_comm, BitVec.sub_add_cancel]

/-- Settles O16: a step has a two-sided inverse. -/
theorem everyMixingStepIsReversible : Obligations.EveryMixingStepIsReversible := by
  intro P M r i
  exact Function.bijective_iff_has_inverse.mpr
    ⟨fun g => unmixStep P M r g i, fun g => unmixStep_mixStep P M r g i, fun g => mixStep_unmixStep P M r g i⟩

/-! ### The command -/

theorem exec_compress_eq (st : Hash) (m : Chunk) (s : State) :
    exec (.compress st m) s = .next ((s.setOut (ser (compress Config.params (deser st) m))).complete false) := rfl

/-- Settles O17: COMPRESS writes OUT and completes. -/
theorem compressCompletes : Obligations.CompressCompletes := fun st m s => exec_compress_eq st m s

end Sys2Proof.Machine
end

section
/-! The Digest Engine over whole messages (41_digest_engine.md R122 to R130): absorption and finalization as a fold of
`compress` over chunks, and what INIT, UPDATE, FINAL and HASH leave. -/

namespace Sys2Proof.Machine

/-! ### Whole chunks and the remainder (R122) -/

/-- A string shorter than a chunk has no whole chunk. -/
theorem chainOver_of_length_lt (P : Params) (h : Chain) {m : List Byte} (hm : m.length < 64) :
    chainOver P h m = h := by
  simp [chainOver, wholeChunks, Nat.div_eq_of_lt hm]

theorem remainder_of_length_lt {m : List Byte} (hm : m.length < 64) : remainder m = m := by
  simp [remainder, Nat.div_eq_of_lt hm]

@[simp] theorem remainder_length (m : List Byte) : (remainder m).length = m.length % 64 := by
  rw [remainder, List.length_drop]
  omega

theorem wholeChunks_append {a : List Byte} (ha : a.length = 64) (m : List Byte) :
    wholeChunks (a ++ m) = toVec 64 a :: wholeChunks m := by
  have hcount : (a ++ m).length / 64 = m.length / 64 + 1 := by rw [List.length_append]; omega
  have hfirst : slice (a ++ m) (64 * 0) (64 * 0 + 64) = a := by simp [slice, ha]
  have hlater (k : Nat) : slice (a ++ m) (64 * (k + 1)) (64 * (k + 1) + 64) = slice m (64 * k) (64 * k + 64) := by
    have hdrop : (a ++ m).drop (64 * (k + 1)) = m.drop (64 * k) := by
      rw [show 64 * (k + 1) = a.length + 64 * k by omega, List.drop_append]
      simp
    simp [slice, hdrop]
  rw [wholeChunks, hcount, List.range_succ_eq_map, List.map_cons, List.map_map, hfirst, wholeChunks]
  congr 2
  funext k
  exact congrArg (toVec 64) (hlater k)

theorem chainOver_append (P : Params) (h : Chain) {a : List Byte} (ha : a.length = 64) (m : List Byte) :
    chainOver P h (a ++ m) = chainOver P (compress P h (toVec 64 a)) m := by
  rw [chainOver, wholeChunks_append ha, List.foldl_cons, ← chainOver]

/-- A chunk is one compression. -/
theorem chainOver_chunk (P : Params) (h : Chain) {a : List Byte} (ha : a.length = 64) :
    chainOver P h a = compress P h (toVec 64 a) := by
  have hfold := chainOver_append P h ha []
  rwa [List.append_nil, chainOver_of_length_lt P _ (m := []) (by simp)] at hfold

theorem remainder_append {a : List Byte} (ha : a.length = 64) (m : List Byte) : remainder (a ++ m) = remainder m := by
  have hcount : 64 * ((a ++ m).length / 64) = a.length + 64 * (m.length / 64) := by rw [List.length_append]; omega
  rw [remainder, hcount, List.drop_append]
  simp [remainder]

/-! ### Absorption (R121, R122) -/

theorem absorb_append (P : Params) (c : Ctx) (a b : List Byte) : absorb P (absorb P c a) b = absorb P c (a ++ b) :=
  List.foldl_append.symm

/-- Settles O18: the loop over a concatenation is the two loops one after the other. -/
theorem absorbingInPiecesIsAbsorbingWhole : Obligations.AbsorbingInPiecesIsAbsorbingWhole := absorb_append

/-- What absorption leaves in H and BUF: the chunks of the buffer and the data are folded, the rest stays. -/
theorem absorb_h_buf (P : Params) (c : Ctx) (data : List Byte) (hbuf : c.buf.length ≤ 63) :
    (absorb P c data).h = chainOver P c.h (c.buf ++ data) ∧ (absorb P c data).buf = remainder (c.buf ++ data) := by
  induction data generalizing c with
  | nil =>
    rw [List.append_nil, chainOver_of_length_lt P c.h (by omega), remainder_of_length_lt (by omega)]
    exact ⟨rfl, rfl⟩
  | cons x data ih =>
    rw [absorb_cons, List.append_cons]
    obtain ⟨hfull, e⟩ | ⟨hroom, e⟩ := absorbByte_cases P c x
    · have hchunk : (c.buf ++ [x]).length = 64 := by simp [hfull]
      rw [chainOver_append P c.h hchunk, remainder_append hchunk, e]
      exact ih _ (by simp)
    · rw [e]
      exact ih _ (by simp; omega)

theorem absorb_eq (P : Params) (c : Ctx) (data : List Byte) (hbuf : c.buf.length ≤ 63) :
    absorb P c data =
      ⟨chainOver P c.h (c.buf ++ data), remainder (c.buf ++ data), c.total + BitVec.ofNat 64 data.length⟩ := by
  obtain ⟨hh, hb⟩ := absorb_h_buf P c data hbuf
  rw [← hh, ← hb, ← absorb_total P c data]

/-- Settles O19: H, BUF and TOTAL after the loop. -/
theorem absorbIsAppendThenDrain : Obligations.AbsorbIsAppendThenDrain := absorb_eq

/-- The context of a message absorbed from the start. -/
theorem absorb_fresh (P : Params) (m : List Byte) :
    absorb P (fresh P) m = ⟨chainOver P P.iv m, remainder m, BitVec.ofNat 64 m.length⟩ := by
  rw [absorb_eq P (fresh P) m (by simp)]
  simp

/-- Folding goes on from the chunks of a first part with its remainder before the rest. -/
theorem chainOver_chainOver (P : Params) (h : Chain) (m p : List Byte) :
    chainOver P (chainOver P h m) (remainder m ++ p) = chainOver P h (m ++ p) := by
  have hsplit := absorb_append P ⟨h, [], 0⟩ m p
  rw [absorb_eq P ⟨h, [], 0⟩ m (by simp), absorb_eq P ⟨h, [], 0⟩ (m ++ p) (by simp),
    absorb_eq _ _ p (by simp; omega)] at hsplit
  exact congrArg Ctx.h hsplit

/-! ### Padding and finalization (R124 to R126) -/

theorem padZeros_eq {L : Nat} (hL : L ≤ 63) : padZeros L = if L ≤ 55 then 55 - L else 119 - L := by
  unfold padZeros
  split_ifs <;> omega

theorem padding_eq {L : Nat} (hL : L ≤ 63) (bl : Dword) :
    padding L bl = 0x80 :: (List.replicate (if L ≤ 55 then 55 - L else 119 - L) 0x00 ++ le64 bl) := by
  rw [padding, padZeros_eq hL]
  rfl

theorem add_padding_length {L : Nat} (hL : L ≤ 63) (bl : Dword) :
    L + (padding L bl).length = if L ≤ 55 then 64 else 128 := by
  rw [padding_length, padZeros_eq hL]
  split_ifs <;> omega

/-- Settles O20: the bytes of the padding, and where it ends. -/
theorem paddingCompletesOneOrTwoChunks : Obligations.PaddingCompletesOneOrTwoChunks :=
  fun _ bl hL => ⟨padding_eq hL bl, add_padding_length hL bl⟩

/-- The padding depends on the length within the last chunk only. -/
theorem padding_mod (n : Nat) (bl : Dword) : padding (n % 64) bl = padding n bl := by
  rw [padding, padding, padZeros, padZeros, Nat.mod_mod]

/-- Finalization folds the buffered bytes with their padding, which are one chunk or two (R124, R125). -/
theorem finish_h (P : Params) (c : Ctx) (hbuf : c.buf.length ≤ 63) :
    (finish P c).h = chainOver P c.h (c.buf ++ padding c.buf.length (c.total * 8)) := by
  have hlen := add_padding_length hbuf (c.total * 8)
  rw [← List.length_append] at hlen
  dsimp only [finish]
  generalize c.buf ++ padding c.buf.length (c.total * 8) = tail at hlen
  split at hlen
  case isTrue =>
    have hchunk : slice tail 0 64 = tail := by simp [slice, ← hlen]
    rw [if_neg (by omega), hchunk, chainOver_chunk P c.h hlen]
  case isFalse =>
    have hfirst : (tail.take 64).length = 64 := by simp [hlen]
    have hsecond : (tail.drop 64).length = 64 := by simp [hlen]
    have hfold : chainOver P c.h tail =
        compress P (compress P c.h (toVec 64 (tail.take 64))) (toVec 64 (tail.drop 64)) := by
      rw [← chainOver_chunk P _ hsecond, ← chainOver_append P c.h hfirst, List.take_append_drop]
    have hchunks : slice tail 0 64 = tail.take 64 ∧ slice tail 64 128 = tail.drop 64 := by
      simp [slice, hlen]
    rw [if_pos hlen, hchunks.1, hchunks.2, hfold]

/-- The finished context of a message (R126): its padded chunks folded from IV, nothing buffered, TOTAL its length. -/
def finishedCtx (P : Params) (m : List Byte) : Ctx := ⟨chainOver P P.iv (pad m), [], BitVec.ofNat 64 m.length⟩

theorem finish_absorb_fresh (P : Params) (m : List Byte) : finish P (absorb P (fresh P) m) = finishedCtx P m := by
  have hbits : BitVec.ofNat 64 m.length * 8 = BitVec.ofNat 64 (8 * m.length) := by
    rw [BitVec.ofNat_mul, BitVec.mul_comm]
    rfl
  have hh := finish_h P (absorb P (fresh P) m) (absorb_buf_length_le P _ m (by simp))
  rw [absorb_fresh] at hh ⊢
  dsimp only at hh
  rw [remainder_length, padding_mod, hbits, chainOver_chainOver, ← pad] at hh
  rw [finishedCtx, ← hh]
  rfl

theorem digest_eq_ser (P : Params) (m : List Byte) : digest P m = ser (chainOver P P.iv (pad m)) := by
  rw [digest_eq, finish_absorb_fresh, finishedCtx]

theorem pad_length_mod (m : List Byte) : (pad m).length % 64 = 0 := by
  rw [pad, List.length_append, padding_length, padZeros]
  omega

/-- Settles O21: `finish` of the absorbed message is the finished context of the message. -/
theorem digestIsFoldOverPaddedMessage : Obligations.DigestIsFoldOverPaddedMessage :=
  fun P m _ => ⟨digest_eq_ser P m, pad_length_mod m⟩

/-! ### The commands (R127 to R130) -/

theorem exec_init_eq (s : State) :
    exec .init s = .next (((s.setCtx (fresh Config.params)).setPhase .init).complete false) := rfl

/-- Settles O22: INIT makes the context fresh and completes. -/
theorem initCompletes : Obligations.InitCompletes := exec_init_eq

theorem exec_update_of_fits {data : List Byte} {s : State} (hphase : s.phase ≠ .fin)
    (h : s.total.toNat + data.length < 2 ^ 61) :
    exec (.update data) s = .next (((s.setCtx (absorb Config.params s.ctx data)).setPhase .acc).complete false) := by
  rw [exec_update_eq]
  obtain ⟨hfin, _⟩ | ⟨_, hlong, _⟩ | ⟨_, _, e⟩ := execUpdateWith_cases Config.params data s
  · exact absurd hfin hphase
  · omega
  · exact e

/-- Settles O23: the context UPDATE leaves is the absorbed one. -/
theorem updateCompletes : Obligations.UpdateCompletes := by
  intro data s hphase hbuf hfits
  rw [exec_update_of_fits hphase hfits, absorb_eq Config.params s.ctx data hbuf]
  rfl

/-- Settles O24: FINAL folds the buffered bytes with their padding. -/
theorem finalCompletes : Obligations.FinalCompletes := by
  intro s hphase hbuf _
  refine ⟨(finish Config.params s.ctx).h, ?_, exec_final_of_phase_ne_fin hphase⟩
  have hbits : BitVec.ofNat 64 (s.total.toNat * 8) = s.total * 8 := by
    rw [BitVec.ofNat_mul, BitVec.ofNat_toNat, BitVec.setWidth_eq]
    rfl
  rw [hbits, finish_h Config.params s.ctx hbuf, ← padding_eq hbuf]
  rfl

theorem exec_hash_of_fits {data : List Byte} (s : State) (h : data.length < 2 ^ 61) :
    exec (.hash data) s = .next ((((s.setCtx (finishedCtx Config.params data)).setOut
      (digest Config.params data)).setPhase .fin).complete false) := by
  rw [exec_hash_eq, ← finish_absorb_fresh]
  obtain ⟨hlong, _⟩ | ⟨_, e⟩ := execHashWith_cases Config.params data s
  · omega
  · exact e

/-- Settles O25: HASH leaves the finished context of its data and the digest in OUT. -/
theorem hashCompletes : Obligations.HashCompletes := by
  intro data s hfits
  rw [exec_hash_of_fits s hfits, digest_eq_ser]
  rfl

/-! ### The streamed digest (R92, R123) -/

theorem execAll_cons_of_next {i : Instr} {s t : State} (is : List Instr) (h : exec i s = .next t) :
    execAll (i :: is) s = execAll is t := by
  simp only [execAll, h]

theorem execAll_singleton_of_next {i : Instr} {s t : State} (h : exec i s = .next t) : execAll [i] s = .next t :=
  execAll_cons_of_next [] h

/-- The count after an absorption that stays below 2^61 does not wrap. -/
theorem absorb_total_toNat (P : Params) (c : Ctx) (data : List Byte) (h : c.total.toNat + data.length < 2 ^ 61) :
    (absorb P c data).total.toNat = c.total.toNat + data.length := by
  rw [absorb_total, BitVec.toNat_add, BitVec.toNat_ofNat, Nat.add_mod_mod, Nat.mod_eq_of_lt (by omega)]

/-- UPDATEs and a FINAL leave what the FINAL alone leaves once all the pieces are absorbed. -/
theorem execAll_updates_final (pieces : List (List Byte)) (s : State) (hphase : s.phase ≠ .fin)
    (hfits : s.total.toNat + pieces.flatten.length < 2 ^ 61) :
    execAll (pieces.map Instr.update ++ [Instr.final]) s =
      exec .final (s.setCtx (absorb Config.params s.ctx pieces.flatten)) := by
  induction pieces generalizing s with
  | nil =>
    rw [List.flatten_nil, absorb_nil, State.setCtx_self, exec_final_of_phase_ne_fin hphase]
    exact execAll_singleton_of_next (exec_final_of_phase_ne_fin hphase)
  | cons piece pieces ih =>
    rw [List.flatten_cons, List.length_append] at hfits
    have htotal := absorb_total_toNat Config.params s.ctx piece (by simp; omega)
    rw [State.ctx_total] at htotal
    rw [List.map_cons, List.cons_append, execAll_cons_of_next _ (exec_update_of_fits hphase (by omega)),
      ih _ (by simp) (by rw [State.complete_total, State.setPhase_total, State.setCtx_total, htotal]; omega),
      List.flatten_cons, ← absorb_append,
      exec_final_of_phase_ne_fin (by simp), exec_final_of_phase_ne_fin (by simpa using hphase)]
    rfl

/-- Settles O26: after INIT the pieces are absorbed into the fresh context, and FINAL finishes it as HASH does. -/
theorem streamedDigestIsOneShotDigest : Obligations.StreamedDigestIsOneShotDigest := by
  intro pieces s hfits
  refine ⟨_, ?_, exec_hash_of_fits s hfits⟩
  rw [Pseudo.expand, List.append_assoc, List.singleton_append, execAll_cons_of_next _ (exec_init_eq s),
    execAll_updates_final pieces _ (by simp) (by simpa using hfits), exec_final_of_phase_ne_fin (by simp),
    ← finish_absorb_fresh]
  rfl

end Sys2Proof.Machine
end

section
/-! Digest verification (42_digest_verify.md): the comparator is equality (R140), so CTEQ (R142) and VDIGEST (R143) tell
it. -/

namespace Sys2Proof.Machine

/-- Settles O29: the accumulated differences vanish exactly on equal operands. -/
theorem comparatorIsEquality : Obligations.ComparatorIsEquality := cteq_eq_true_iff

theorem cteq_eq_decide (a b : Hash) : cteq a b = decide (a = b) := by
  rw [Bool.eq_iff_iff, cteq_eq_true_iff, decide_eq_true_iff]

theorem exec_cteq_eq (a b : Hash) (s : State) : exec (.cteq a b) s = .next (s.complete (cteq a b)) := rfl

/-- Settles O30: CTEQ completes with the comparator's value. -/
theorem cteqCompletes : Obligations.CteqCompletes := by
  intro a b s
  rw [exec_cteq_eq, cteq_eq_decide]
  rfl

theorem exec_vdigest_of_fits (exp : Hash) {data : List Byte} (s : State) (h : data.length < 2 ^ 61) :
    exec (.vdigest exp data) s = .next (((s.setCtx (finishedCtx Config.params data)).setPhase .fin).complete
      (cteq (digest Config.params data) exp)) := by
  rw [exec_vdigest_eq, ← finish_absorb_fresh]
  obtain ⟨hlong, _⟩ | ⟨_, e⟩ := execVdigestWith_cases Config.params exp data s
  · omega
  · exact e

/-- Settles O31: VDIGEST leaves the finished context of its data and compares the digest. -/
theorem vdigestCompletes : Obligations.VdigestCompletes := by
  intro exp data s hfits
  rw [exec_vdigest_of_fits exp s hfits, cteq_eq_decide, digest_eq_ser]
  rfl

/-- Settles O32: HASH leaves in OUT the digest that VDIGEST computes again. -/
theorem digestRoundTripVerifies : Obligations.DigestRoundTripVerifies := by
  intro data s t hfits hhash
  obtain rfl := next_state_unique hhash (exec_hash_of_fits s hfits)
  exact ⟨_, exec_vdigest_of_fits _ _ hfits, by simp, rfl⟩

end Sys2Proof.Machine
end

section
/-! The Proof-of-Work Engine (43_pow_engine.md): the predicate and its commands LZCHK and VPOW, one attempt of MINE, the
function `mine` (R156), and the run of the machine through a MINE. -/

namespace Sys2Proof.Machine

/-! ### The predicate (R150) and LZCHK (R152) -/

/-- Settles O34: what d' asks of a bit, d asks too: of a whole zero byte or of the low bits of the same byte. -/
theorem predicateIsMonotone : Obligations.PredicateIsMonotone := by
  intro h d d' hle hpass
  have hval : d'.val ≤ d.val := hle
  obtain ⟨hbytes, hbits⟩ := (lzpred_iff h d).mp hpass
  refine (lzpred_iff h d').mpr ⟨fun k hk => hbytes k (by omega), fun k hk b hb => ?_⟩
  obtain hsame | hbelow : d'.val / 8 = d.val / 8 ∨ d'.val / 8 < d.val / 8 := by omega
  · exact hbits k (by omega) b (by omega)
  · simp [hbytes k (by omega)]

/-- With a legal difficulty byte LZCHK completes (R152, 30_encoding.md R75). -/
theorem execLzchk_of_legal {b : Byte} {d : Difficulty} (x : Hash) (s : State) (hb : b.toNat = d.val) :
    execLzchk b x s = .next (s.complete (lzpred x d)) := by
  have hd := d.isLt
  obtain ⟨habove, _⟩ | ⟨hlegal, e⟩ := execLzchk_cases b x s
  · omega
  · rwa [show (⟨b.toNat, by omega⟩ : Difficulty) = d from Fin.ext hb] at e

/-- Settles O35: LZCHK completes with the predicate. -/
theorem lzchkCompletes : Obligations.LzchkCompletes :=
  fun _ _ x s hb => execLzchk_of_legal x s hb

/-! ### VPOW (R158) -/

/-- The context a proof-of-work hash leaves is the finished one of its preimage (R151, R153, R158). -/
theorem spentCtx_powhash (P : Params) (data : List Byte) (n : Dword) :
    spentCtx (powhash P data n) data = finishedCtx P (preimage data n) := by
  rw [spentCtx, powhash, digest_eq_ser, deser_ser, finishedCtx, preimage, powhash_preimage_length]

theorem execVpowWith_of_legal (P : Params) {b : Byte} {d : Difficulty} (nonce : Dword) (exp : Hash)
    {data : List Byte} (s : State) (hb : b.toNat = d.val) (hfits : data.length + 8 < 2 ^ 61) :
    execVpowWith P b nonce exp data s =
      .next (((s.setCtx (finishedCtx P (preimage data nonce))).setPhase .fin).complete
        (powverify P data nonce d exp)) := by
  have hd := d.isLt
  rw [← spentCtx_powhash]
  obtain ⟨habove, _⟩ | ⟨_, hlong, _⟩ | ⟨hlegal, _, e⟩ := execVpowWith_cases P b nonce exp data s
  · omega
  · omega
  · rwa [show (⟨b.toNat, by omega⟩ : Difficulty) = d from Fin.ext hb] at e

theorem powverify_eq_decide (P : Params) (data : List Byte) (n : Dword) (d : Difficulty) (exp : Hash) :
    powverify P data n d exp = decide (powhash P data n = exp ∧ lzpred exp d = true) := by
  rw [Bool.eq_iff_iff, powVerifyNeedsBothChecks, decide_eq_true_iff]

/-- Settles O37: VPOW leaves the finished context of the preimage and tells whether both checks hold. -/
theorem vpowCompletes : Obligations.VpowCompletes := by
  intro b d nonce exp data s hb hfits
  rw [exec_vpow_eq, execVpowWith_of_legal _ _ _ _ hb hfits, powverify_eq_decide, finishedCtx, preimage,
    powhash_preimage_length, powhash, digest_eq_ser]
  rfl

/-! ### One attempt of MINE (R153, R154) -/

theorem State.attempt_of_pass {P : Params} {j : Search} {s : State}
    (hpass : lzpred (powhash P j.data s.nonce) j.difficulty = true) :
    s.attempt P j = (((s.setCtx (spentCtx (powhash P j.data s.nonce) j.data)).setOut
      (powhash P j.data s.nonce)).setPhase .fin).complete false := by
  obtain ⟨_, e⟩ | ⟨hfail, _⟩ | ⟨hfail, _⟩ := s.attempt_cases P j
  · exact e
  · simp [hpass] at hfail
  · simp [hpass] at hfail

theorem State.attempt_of_fail {P : Params} {j : Search} {s : State}
    (hfail : lzpred (powhash P j.data s.nonce) j.difficulty = false) (hmore : s.nonce ≠ BitVec.allOnes 64) :
    s.attempt P j = { s with nonce := s.nonce + 1, busy := true, search := some j } := by
  obtain ⟨hpass, _⟩ | ⟨_, hlast, _⟩ | ⟨_, _, e⟩ := s.attempt_cases P j
  · simp [hfail] at hpass
  · exact absurd hlast hmore
  · exact e

theorem execMineWith_of_legal (P : Params) {b : Byte} {d : Difficulty} {data : List Byte} (s : State)
    (hb : b.toNat = d.val) (hfits : data.length + 8 < 2 ^ 61) :
    execMineWith P b data s = .next (State.attempt P ⟨d, data⟩ { s with nonce := 0 }) := by
  have hd := d.isLt
  obtain ⟨habove, _⟩ | ⟨_, hlong, _⟩ | ⟨hlegal, _, e⟩ := execMineWith_cases P b data s
  · omega
  · omega
  · rwa [show (⟨b.toNat, by omega⟩ : Difficulty) = d from Fin.ext hb] at e

/-- Settles O38: the first attempt passes, at difficulty 0 because every hash does. -/
theorem mineCompletesAtNonceZero : Obligations.MineCompletesAtNonceZero := by
  intro b d data s hb hfits hfirst
  have hpass : lzpred (powhash Config.params data 0) d = true := by
    obtain hzero | hpass := hfirst
    · rw [show d = 0 from Fin.ext hzero, lzpred_zero]
    · exact hpass
  have hattempt := State.attempt_of_pass (j := ⟨d, data⟩) (s := { s with nonce := 0 }) hpass
  rw [exec_mine_eq, execMineWith_of_legal _ s hb hfits, hattempt, spentCtx_powhash, finishedCtx, preimage,
    powhash_preimage_length, powhash, preimage, digest_eq_ser]
  rfl

/-- Settles O39: the first attempt fails, and nonce 0 is not the last. -/
theorem mineGoesOnAfterFailedFirstAttempt : Obligations.MineGoesOnAfterFailedFirstAttempt := by
  intro P b d data s hb hfits hfail
  have hmore : (0 : Dword) ≠ BitVec.allOnes 64 := by decide
  have hattempt := State.attempt_of_fail (j := ⟨d, data⟩) (s := { s with nonce := 0 }) hfail hmore
  rw [execMineWith_of_legal P s hb hfits, hattempt]
  rfl

theorem eq_allOnes_iff_toNat (n : Dword) : n = BitVec.allOnes 64 ↔ n.toNat = 2 ^ 64 - 1 := by
  rw [← BitVec.toNat_inj, BitVec.toNat_allOnes]

/-- Settles O40: a busy block makes one attempt, with its three ends. -/
theorem busyStepIsOneAttempt : Obligations.BusyStepIsOneAttempt := by
  constructor
  · intro s u j hlow hbusy hsearch
    exact ⟨_, continueSearchWith_of_search _ hsearch, step_of_search hlow hbusy hsearch⟩
  · intro P u j hbusy hsearch
    have hlast_iff := eq_allOnes_iff_toNat u.nonce
    rw [continueSearchWith_of_search P hsearch]
    obtain ⟨hpass, e⟩ | ⟨hfail, hlast, e⟩ | ⟨hfail, hmore, e⟩ := u.attempt_cases P j
    · rw [e, if_pos hpass]
      rfl
    · rw [e, if_neg (by simp [hfail]), if_pos (hlast_iff.mp hlast)]
      rfl
    · rw [e, if_neg (by simp [hfail]), if_neg (mt hlast_iff.mpr hmore), ← hbusy, ← hsearch]

theorem toNat_add_one_of_ne_allOnes {n : Dword} (h : n ≠ BitVec.allOnes 64) : (n + 1).toNat = n.toNat + 1 := by
  rw [Ne, eq_allOnes_iff_toNat] at h
  have hn := n.isLt
  have hone : (1 : Dword).toNat = 1 := rfl
  rw [BitVec.toNat_add, hone, Nat.mod_eq_of_lt (by omega)]

/-- Settles O44: of the three ends of an attempt, only the third leaves BUSY = 1. -/
theorem everyFailedAttemptDecreasesTheMeasure : Obligations.EveryFailedAttemptDecreasesTheMeasure := by
  intro P s t _ hstep hbusy
  obtain ⟨_, e⟩ | ⟨j, hj, e⟩ := continueSearchWith_cases P s
  · simp [e] at hstep
  · obtain rfl := next_state_unique hstep e
    obtain ⟨_, e⟩ | ⟨_, _, e⟩ | ⟨_, hmore, e⟩ := s.attempt_cases P j
    · simp [e] at hbusy
    · simp [e] at hbusy
    · have hnext := toNat_add_one_of_ne_allOnes hmore
      have hlt := (s.nonce + 1).isLt
      rw [e]
      exact ⟨by omega, hnext, hj.symm⟩

/-! ### The function mine (R156) -/

/-- One attempt of the function: it finds the nonce, or has tried the last one, or goes on. -/
theorem mineFrom_succ_cases (P : Params) (data : List Byte) (d : Difficulty) (fuel : Nat) (n : Dword) :
    (lzpred (powhash P data n) d = true ∧ mineFrom P data d (fuel + 1) n = some (n, powhash P data n)) ∨
      (lzpred (powhash P data n) d = false ∧ n = BitVec.allOnes 64 ∧ mineFrom P data d (fuel + 1) n = none) ∨
      (lzpred (powhash P data n) d = false ∧ n ≠ BitVec.allOnes 64 ∧
        mineFrom P data d (fuel + 1) n = mineFrom P data d fuel (n + 1)) := by
  rw [mineFrom]
  split
  · exact .inl ⟨‹_›, rfl⟩
  · split
    · exact .inr (.inl ⟨Bool.eq_false_iff.mpr ‹_›, ‹_›, rfl⟩)
    · exact .inr (.inr ⟨Bool.eq_false_iff.mpr ‹_›, ‹_›, rfl⟩)

/-- The nonces from n to below k fail the predicate. -/
def FailsBetween (P : Params) (data : List Byte) (d : Difficulty) (n k : Nat) : Prop :=
  ∀ m : Dword, n ≤ m.toNat → m.toNat < k → lzpred (powhash P data m) d = false

theorem FailsBetween.self {P : Params} {data : List Byte} {d : Difficulty} (n : Nat) : FailsBetween P data d n n :=
  fun _ hle hlt => absurd hlt (Nat.not_lt.mpr hle)

theorem FailsBetween.cons {P : Params} {data : List Byte} {d : Difficulty} {n : Dword} {k : Nat}
    (hfail : lzpred (powhash P data n) d = false) (h : FailsBetween P data d (n.toNat + 1) k) :
    FailsBetween P data d n.toNat k := by
  intro m hle hlt
  obtain heq | hgt := Nat.eq_or_lt_of_le hle
  · rwa [← BitVec.eq_of_toNat_eq heq]
  · exact h m hgt hlt

/-- A nonce found is the first to pass, with its hash. -/
theorem mineFrom_eq_some {P : Params} {data : List Byte} {d : Difficulty} {fuel : Nat} {n m : Dword} {x : Hash}
    (h : mineFrom P data d fuel n = some (m, x)) :
    x = powhash P data m ∧ lzpred x d = true ∧ FailsBetween P data d n.toNat m.toNat := by
  induction fuel generalizing n with
  | zero => simp [mineFrom] at h
  | succ fuel ih =>
    obtain ⟨hpass, e⟩ | ⟨_, _, e⟩ | ⟨hfail, hmore, e⟩ := mineFrom_succ_cases P data d fuel n <;> rw [e] at h
    · obtain ⟨rfl, rfl⟩ : n = m ∧ powhash P data n = x := by simpa using h
      exact ⟨rfl, hpass, FailsBetween.self _⟩
    · simp at h
    · obtain ⟨hx, hpass, hrest⟩ := ih h
      rw [toNat_add_one_of_ne_allOnes hmore] at hrest
      exact ⟨hx, hpass, hrest.cons hfail⟩

/-- Without an answer, and with fuel for the rest of the nonce space, every nonce fails. -/
theorem mineFrom_eq_none {P : Params} {data : List Byte} {d : Difficulty} {fuel : Nat} {n : Dword}
    (hfuel : 2 ^ 64 ≤ n.toNat + fuel) (h : mineFrom P data d fuel n = none) :
    FailsBetween P data d n.toNat (2 ^ 64) := by
  induction fuel generalizing n with
  | zero => exact absurd n.isLt (by omega)
  | succ fuel ih =>
    obtain ⟨_, e⟩ | ⟨hfail, hlast, _⟩ | ⟨hfail, hmore, e⟩ := mineFrom_succ_cases P data d fuel n
    · simp [e] at h
    · have hend : n.toNat + 1 = 2 ^ 64 := by rw [(eq_allOnes_iff_toNat n).mp hlast]; rfl
      exact FailsBetween.cons hfail (hend ▸ FailsBetween.self _)
    · have hnext := toNat_add_one_of_ne_allOnes hmore
      have hrest := ih (n := n + 1) (by omega) (e ▸ h)
      rw [hnext] at hrest
      exact hrest.cons hfail

theorem mine_eq_some {P : Params} {data : List Byte} {d : Difficulty} {n : Dword} {x : Hash}
    (h : mine P data d = some (n, x)) :
    x = powhash P data n ∧ lzpred x d = true ∧
      ∀ m : Dword, m.toNat < n.toNat → lzpred (powhash P data m) d = false := by
  obtain ⟨hx, hpass, hleast⟩ := mineFrom_eq_some h
  exact ⟨hx, hpass, fun m hm => hleast m (Nat.zero_le _) hm⟩

theorem mine_eq_none {P : Params} {data : List Byte} {d : Difficulty} (h : mine P data d = none) (m : Dword) :
    lzpred (powhash P data m) d = false :=
  mineFrom_eq_none (Nat.le_add_left _ _) h m (Nat.zero_le _) m.isLt

/-- Settles O42: what an answer says determines it, for the least passing nonce is unique. -/
theorem mineFindsTheLeastNonce : Obligations.MineFindsTheLeastNonce := by
  intro P data d
  refine ⟨fun n x => ⟨mine_eq_some, ?_⟩, mine_eq_none, fun hfail => ?_⟩
  · rintro ⟨rfl, hpass, hleast⟩
    cases hmine : mine P data d with
    | none => simp [mine_eq_none hmine n] at hpass
    | some answer =>
      obtain ⟨n', x'⟩ := answer
      obtain ⟨rfl, hpass', hleast'⟩ := mine_eq_some hmine
      obtain hlt | heq | hgt := Nat.lt_trichotomy n.toNat n'.toNat
      · simp [hleast' n hlt] at hpass
      · rw [BitVec.eq_of_toNat_eq heq]
      · simp [hleast n' hgt] at hpass'
  · cases hmine : mine P data d with
    | none => rfl
    | some answer =>
      obtain ⟨n, x⟩ := answer
      obtain ⟨rfl, hpass, _⟩ := mine_eq_some hmine
      simp [hfail n] at hpass

/-- Settles O46: the answer's hash is that of its nonce and passes, which are the two checks of VPOW. -/
theorem minedPairVerifies : Obligations.MinedPairVerifies := by
  intro s b d data n x hb hfits hmine
  obtain ⟨hx, hpass, _⟩ := mine_eq_some hmine
  have hverify := (powVerifyNeedsBothChecks Config.params data n d x).mpr ⟨hx.symm, hpass⟩
  exact ⟨_, execVpowWith_of_legal Config.params n x s hb hfits, hverify, rfl⟩

/-! ### The machine's run through a MINE (R153, R154, R177) -/

/-- The block s with the frames `rest` still to come and the search j in progress at nonce n. -/
def State.searching (s : State) (rest : List Frame) (j : Search) (n : Dword) : State :=
  { s with frames := rest, nonce := n, busy := true, search := some j }

theorem State.sampleReset_of_nil {s : State} (h : s.resetIn = []) : s.sampleReset = (false, s) := by
  simp only [State.sampleReset, h]

theorem step_searching {s : State} (rest : List Frame) (j : Search) (n : Dword) (h : s.resetIn = []) :
    step (s.searching rest j n) = .next ((s.searching rest j n).attempt Config.params j).retire :=
  step_of_search (State.sampleReset_of_nil h) rfl rfl

/-- A failed attempt but the last leads to the next nonce. -/
theorem step_searching_of_fail {s : State} {rest : List Frame} {j : Search} {n : Dword} (h : s.resetIn = [])
    (hfail : lzpred (powhash Config.params j.data n) j.difficulty = false) (hmore : n ≠ BitVec.allOnes 64) :
    step (s.searching rest j n) = .next (s.searching rest j (n + 1)) := by
  have hattempt := State.attempt_of_fail (s := s.searching rest j n) hfail hmore
  rw [step_searching rest j n h, hattempt]
  rfl

/-- An attempt does not read BUSY or the search in the state. -/
theorem State.attempt_searching (P : Params) (s : State) (rest : List Frame) (j : Search) (n : Dword) :
    (s.searching rest j n).attempt P j =
      State.attempt P j { s with frames := rest, busy := true, nonce := n } := by
  dsimp only [State.attempt, State.searching]
  split_ifs <;> rfl

/-- The step that takes the frame of a MINE is the attempt at nonce 0. -/
theorem step_of_mine {s : State} {F : Frame} {rest : List Frame} {b : Byte} {d : Difficulty} {data : List Byte}
    (h : s.resetIn = []) (hidle : s.busy = false) (hframes : s.frames = F :: rest)
    (hdec : decode F = .command (.mine b data)) (hb : b.toNat = d.val) (hfits : data.length + 8 < 2 ^ 61) :
    step s = step (s.searching rest ⟨d, data⟩ 0) := by
  rw [step_of_command (State.sampleReset_of_nil h) hidle hframes hdec, exec_mine_eq,
    execMineWith_of_legal _ _ hb hfits, retireOutcome_next, step_searching rest _ 0 h, State.attempt_searching]

theorem run_succ_congr {s t : State} (k : Nat) (h : step s = step t) :
    Host.Core.run Sys2Proof.core (k + 1) s = Host.Core.run Sys2Proof.core (k + 1) t := by
  have e : Sys2Proof.core.step s = Sys2Proof.core.step t := h
  simp only [Host.Core.run, e]

/-- While the nonces below k fail, k steps lead from nonce 0 to nonce k. -/
theorem run_searching {s : State} {rest : List Frame} {j : Search} (h : s.resetIn = []) (r k : Nat) (hk : k < 2 ^ 64)
    (hfail : ∀ m : Dword, m.toNat < k → lzpred (powhash Config.params j.data m) j.difficulty = false) :
    Host.Core.run Sys2Proof.core (k + r) (s.searching rest j 0) =
      Host.Core.run Sys2Proof.core r (s.searching rest j (BitVec.ofNat 64 k)) := by
  induction k generalizing r with
  | zero => rw [Nat.zero_add]; rfl
  | succ k ih =>
    have hk' : (BitVec.ofNat 64 k).toNat = k := by rw [BitVec.toNat_ofNat, Nat.mod_eq_of_lt (by omega)]
    have hmore : BitVec.ofNat 64 k ≠ BitVec.allOnes 64 := by rw [Ne, eq_allOnes_iff_toNat, hk']; omega
    have hstep := step_searching_of_fail (rest := rest) h (hfail (BitVec.ofNat 64 k) (by omega)) hmore
    rw [Nat.add_right_comm, Nat.add_assoc, ih (r + 1) (by omega) fun m hm => hfail m (by omega),
      run_succ_of_next r hstep, BitVec.ofNat_add]
    rfl

/-- Settles O43: the failing nonces below the last attempt are passed one by one, and that attempt ends the MINE. -/
theorem mineRunRefinesMineFunction : Obligations.MineRunRefinesMineFunction := by
  intro s F rest b d data hlow hidle hframes hdec hb hfits
  have hfirst := step_of_mine hlow hidle hframes hdec hb hfits
  split
  case h_1 n x hmine =>
    obtain ⟨rfl, hpass, hleast⟩ := mine_eq_some hmine
    have hattempt := State.attempt_of_pass (j := ⟨d, data⟩) (s := s.searching rest ⟨d, data⟩ n) hpass
    rw [run_succ_congr _ hfirst, run_searching (j := ⟨d, data⟩) hlow 1 _ n.isLt hleast, BitVec.ofNat_toNat,
      BitVec.setWidth_eq, run_succ_of_next 0 (step_searching rest _ n hlow), hattempt]
    rfl
  case h_2 hmine =>
    obtain ⟨k, hk⟩ : ∃ k, 2 ^ 64 = k + 1 := ⟨2 ^ 64 - 1, by norm_num⟩
    have hlast : BitVec.ofNat 64 k = BitVec.allOnes 64 := by
      rw [eq_allOnes_iff_toNat, BitVec.toNat_ofNat, hk, Nat.add_sub_cancel, Nat.mod_eq_of_lt (by omega)]
    have hfail := mine_eq_none hmine
    have hattempt := State.attempt_of_exhausted (j := ⟨d, data⟩) (s := s.searching rest ⟨d, data⟩ (BitVec.allOnes 64))
      (hfail _) rfl
    rw [hk, run_succ_congr _ hfirst, run_searching (j := ⟨d, data⟩) hlow 1 k (by omega) fun m _ => hfail m, hlast,
      run_succ_of_next 0 (step_searching rest _ _ hlow), hattempt]
    rfl

end Sys2Proof.Machine
end

section
/-! Rules for all commands (10_state.md R24 to R33, 60_exceptions.md): what a command can do to the block is an `Effect`,
each command has one that suits it, and that of a one-shot command does not depend on the state it starts in. -/

namespace Sys2Proof

open Machine

/-- The errors a command can end with in its first step (60_exceptions.md R178). -/
def Opcode.refusals : Opcode → List ErrCode
  | .init | .compress | .cteq => []
  | .update => [.phase, .len]
  | .final => [.phase]
  | .hash | .vdigest => [.len]
  | .mine | .vpow => [.diff, .len]
  | .lzchk => [.diff]

/-- The PHASE a command that completes leaves, none where it leaves the engine alone (10_state.md R24). -/
def Opcode.phaseLeft : Opcode → Option Phase
  | .init => some .init
  | .update => some .acc
  | .final | .hash | .vdigest | .mine | .vpow => some .fin
  | .compress | .cteq | .lzchk => none

/-- The commands that write OUT when they complete (R25). -/
def Opcode.writesOut : Opcode → Bool
  | .final | .hash | .mine | .compress => true
  | .init | .update | .vdigest | .vpow | .cteq | .lzchk => false

/-- The verify-type commands (R29). -/
def Opcode.verifies : Opcode → Bool
  | .vdigest | .vpow | .cteq | .lzchk => true
  | .init | .update | .final | .hash | .mine | .compress => false

/-- The commands whose answer depends on the engine context and PHASE (R33). -/
def Opcode.streams : Opcode → Bool
  | .update | .final => true
  | .init | .hash | .vdigest | .mine | .vpow | .compress | .cteq | .lzchk => false

theorem Opcode.streams_eq_false {op : Opcode} (hupdate : op ≠ .update) (hfinal : op ≠ .final) :
    op.streams = false := by
  cases op with
  | update => exact absurd rfl hupdate
  | final => exact absurd rfl hfinal
  | init | hash | vdigest | mine | vpow | compress | cteq | lzchk => rfl

/-- The errors of a refusal are E_PHASE, E_DIFF and E_LEN. -/
theorem Opcode.eq_of_mem_refusals (op : Opcode) : ∀ e ∈ op.refusals, e = .phase ∨ e = .diff ∨ e = .len := by
  cases op <;> decide

namespace Machine

/-- What a command can do to the block in its first step. -/
inductive Effect where
  /-- It raises an error. -/
  | refuse (e : ErrCode)
  /-- It completes with a verdict, and writes the engine's context and PHASE, OUT and NONCE, or leaves them. -/
  | complete (engine : Option (Ctx × Phase)) (out : Option Hash) (nonce : Option Dword) (verdict : Bool)
  /-- It is a MINE whose first attempt fails. -/
  | search (j : Search)

/-- The block after an effect. -/
def Effect.apply : Effect → State → State
  | .refuse e, s => s.raise e
  | .complete engine out nonce verdict, s =>
    State.complete { s with
      h := (engine.map (·.1.h)).getD s.h, buf := (engine.map (·.1.buf)).getD s.buf,
      total := (engine.map (·.1.total)).getD s.total, phase := (engine.map (·.2)).getD s.phase,
      out := out.getD s.out, nonce := nonce.getD s.nonce } verdict
  | .search j, s => { s with nonce := 1, busy := true, search := some j }

/-- The effects a command can have. -/
def Effect.Suits (i : Instr) : Effect → Prop
  | .refuse e => e ∈ i.opcode.refusals ∧ (i.opcode.streams = false → i.wellFormed = false)
  | .complete engine out nonce verdict =>
    i.wellFormed = true ∧ engine.map (·.2) = i.opcode.phaseLeft ∧ out.isSome = i.opcode.writesOut ∧
      nonce.isSome = decide (i.opcode = .mine) ∧ (verdict = true → i.opcode.verifies = true)
  | .search j => i.wellFormed = true ∧ i.opcode = .mine ∧ j.data.length + 8 < 2 ^ 61

/-- The answer of a command on s is an effect that suits it. -/
def Answers (i : Instr) (s : State) : Prop := ∃ f : Effect, f.Suits i ∧ exec i s = .next (f.apply s)

/-- The answer of a command is one effect, whatever state it starts in. -/
def AnswersAlike (i : Instr) : Prop := ∃ f : Effect, f.Suits i ∧ ∀ s, exec i s = .next (f.apply s)

/-! ### Each command -/

theorem answersAlike_init : AnswersAlike .init :=
  ⟨.complete (some (fresh Config.params, .init)) none none false, ⟨rfl, rfl, rfl, rfl, nofun⟩, fun _ => rfl⟩

theorem answers_update (data : List Byte) (s : State) : Answers (.update data) s := by
  by_cases hphase : s.phase = .fin
  · exact ⟨.refuse .phase, ⟨.head _, nofun⟩, exec_update_of_phase_fin data hphase⟩
  · obtain hfits | hlong := Nat.lt_or_ge (s.total.toNat + data.length) (2 ^ 61)
    · exact ⟨.complete (some (absorb Config.params s.ctx data, .acc)) none none false,
        ⟨decide_eq_true (by omega), rfl, rfl, rfl, nofun⟩, exec_update_of_fits hphase hfits⟩
    · exact ⟨.refuse .len, ⟨.tail _ (.head _), nofun⟩, exec_update_of_tooLong hphase hlong⟩

theorem answers_final (s : State) : Answers .final s := by
  by_cases hphase : s.phase = .fin
  · exact ⟨.refuse .phase, ⟨.head _, nofun⟩, exec_final_of_phase_fin hphase⟩
  · exact ⟨.complete (some (finish Config.params s.ctx, .fin)) (some (finishHash Config.params s.ctx)) none false,
      ⟨rfl, rfl, rfl, rfl, nofun⟩, exec_final_of_phase_ne_fin hphase⟩

theorem answersAlike_hash (data : List Byte) : AnswersAlike (.hash data) := by
  obtain hfits | hlong := Nat.lt_or_ge data.length (2 ^ 61)
  · exact ⟨.complete (some (finishedCtx Config.params data, .fin)) (some (digest Config.params data)) none false,
      ⟨decide_eq_true hfits, rfl, rfl, rfl, nofun⟩, fun s => exec_hash_of_fits s hfits⟩
  · exact ⟨.refuse .len, ⟨.head _, fun _ => decide_eq_false (by omega)⟩, fun s => exec_hash_of_tooLong s hlong⟩

theorem answersAlike_vdigest (exp : Hash) (data : List Byte) : AnswersAlike (.vdigest exp data) := by
  obtain hfits | hlong := Nat.lt_or_ge data.length (2 ^ 61)
  · exact ⟨.complete (some (finishedCtx Config.params data, .fin)) none none (cteq (digest Config.params data) exp),
      ⟨decide_eq_true hfits, rfl, rfl, rfl, fun _ => rfl⟩, fun s => exec_vdigest_of_fits exp s hfits⟩
  · exact ⟨.refuse .len, ⟨.head _, fun _ => decide_eq_false (by omega)⟩, fun s => exec_vdigest_of_tooLong exp s hlong⟩

theorem wellFormed_mine (d : Byte) (data : List Byte) :
    (Instr.mine d data).wellFormed = decide (d.toNat ≤ 128 ∧ data.length + 8 < 2 ^ 61) :=
  (Bool.decide_and _ _).symm

theorem wellFormed_vpow (d : Byte) (nonce : Dword) (exp : Hash) (data : List Byte) :
    (Instr.vpow d nonce exp data).wellFormed = decide (d.toNat ≤ 128 ∧ data.length + 8 < 2 ^ 61) :=
  (Bool.decide_and _ _).symm

theorem wellFormed_lzchk (d : Byte) (x : Hash) : (Instr.lzchk d x).wellFormed = decide (d.toNat ≤ 128) :=
  Bool.and_true _

/-- A MINE with legal operands has made its first attempt, at nonce 0 (R153). -/
theorem answersAlike_mine (b : Byte) (data : List Byte) : AnswersAlike (.mine b data) := by
  obtain habove | hle := Nat.lt_or_ge 128 b.toNat
  · exact ⟨.refuse .diff, ⟨.head _, fun _ => by rw [wellFormed_mine]; exact decide_eq_false (by omega)⟩,
      fun s => exec_mine_of_difficulty data s habove⟩
  obtain hfits | hlong := Nat.lt_or_ge (data.length + 8) (2 ^ 61)
  case inr =>
    exact ⟨.refuse .len, ⟨.tail _ (.head _), fun _ => by rw [wellFormed_mine]; exact decide_eq_false (by omega)⟩,
      fun s => exec_mine_of_tooLong s hle hlong⟩
  have hlegal : (Instr.mine b data).wellFormed = true := by rw [wellFormed_mine]; exact decide_eq_true ⟨hle, hfits⟩
  obtain ⟨d, hd⟩ : ∃ d : Difficulty, b.toNat = d.val := ⟨⟨b.toNat, by omega⟩, rfl⟩
  have hattempt (s : State) := execMineWith_of_legal Config.params s hd hfits
  cases hpass : lzpred (powhash Config.params data 0) d with
  | true =>
    refine ⟨.complete (some (spentCtx (powhash Config.params data 0) data, .fin)) (some (powhash Config.params data 0))
      (some 0) false, ⟨hlegal, rfl, rfl, rfl, nofun⟩, fun s => ?_⟩
    have hfirst := State.attempt_of_pass (j := ⟨d, data⟩) (s := { s with nonce := 0 }) hpass
    rw [exec_mine_eq, hattempt, hfirst]
    rfl
  | false =>
    refine ⟨.search ⟨d, data⟩, ⟨hlegal, rfl, hfits⟩, fun s => ?_⟩
    rw [exec_mine_eq, mineGoesOnAfterFailedFirstAttempt _ _ _ _ s hd hfits hpass]
    rfl

theorem answersAlike_vpow (b : Byte) (nonce : Dword) (exp : Hash) (data : List Byte) :
    AnswersAlike (.vpow b nonce exp data) := by
  obtain habove | hle := Nat.lt_or_ge 128 b.toNat
  · exact ⟨.refuse .diff, ⟨.head _, fun _ => by rw [wellFormed_vpow]; exact decide_eq_false (by omega)⟩,
      fun s => exec_vpow_of_difficulty nonce exp data s habove⟩
  obtain hfits | hlong := Nat.lt_or_ge (data.length + 8) (2 ^ 61)
  case inr =>
    exact ⟨.refuse .len, ⟨.tail _ (.head _), fun _ => by rw [wellFormed_vpow]; exact decide_eq_false (by omega)⟩,
      fun s => exec_vpow_of_tooLong nonce exp s hle hlong⟩
  have hlegal : (Instr.vpow b nonce exp data).wellFormed = true := by
    rw [wellFormed_vpow]
    exact decide_eq_true ⟨hle, hfits⟩
  obtain ⟨d, hd⟩ : ∃ d : Difficulty, b.toNat = d.val := ⟨⟨b.toNat, by omega⟩, rfl⟩
  exact ⟨.complete (some (finishedCtx Config.params (preimage data nonce), .fin)) none none
    (powverify Config.params data nonce d exp), ⟨hlegal, rfl, rfl, rfl, fun _ => rfl⟩,
    fun s => execVpowWith_of_legal Config.params nonce exp s hd hfits⟩

theorem answersAlike_compress (st : Hash) (m : Chunk) : AnswersAlike (.compress st m) :=
  ⟨.complete none (some (ser (compress Config.params (deser st) m))) none false, ⟨rfl, rfl, rfl, rfl, nofun⟩,
    fun _ => rfl⟩

theorem answersAlike_cteq (a b : Hash) : AnswersAlike (.cteq a b) :=
  ⟨.complete none none none (cteq a b), ⟨rfl, rfl, rfl, rfl, fun _ => rfl⟩, fun _ => rfl⟩

theorem answersAlike_lzchk (b : Byte) (x : Hash) : AnswersAlike (.lzchk b x) := by
  obtain habove | hle := Nat.lt_or_ge 128 b.toNat
  · exact ⟨.refuse .diff, ⟨.head _, fun _ => by rw [wellFormed_lzchk]; exact decide_eq_false (by omega)⟩,
      fun s => exec_lzchk_of_difficulty x s habove⟩
  · obtain ⟨d, hd⟩ : ∃ d : Difficulty, b.toNat = d.val := ⟨⟨b.toNat, by omega⟩, rfl⟩
    exact ⟨.complete none none none (lzpred x d),
      ⟨by rw [wellFormed_lzchk]; exact decide_eq_true hle, rfl, rfl, rfl, fun _ => rfl⟩,
      fun s => execLzchk_of_legal x s hd⟩

/-- A one-shot or pure command or INIT has one effect, whatever state it starts in (R33). -/
theorem answersAlike_of_oneShot {i : Instr} (h : i.opcode.streams = false) : AnswersAlike i := by
  cases i with
  | update | final => cases h
  | init => exact answersAlike_init
  | hash data => exact answersAlike_hash data
  | vdigest exp data => exact answersAlike_vdigest exp data
  | mine b data => exact answersAlike_mine b data
  | vpow b nonce exp data => exact answersAlike_vpow b nonce exp data
  | compress st m => exact answersAlike_compress st m
  | cteq a b => exact answersAlike_cteq a b
  | lzchk b x => exact answersAlike_lzchk b x

theorem answers (i : Instr) (s : State) : Answers i s := by
  cases hone : i.opcode.streams with
  | false =>
    obtain ⟨f, hf, e⟩ := answersAlike_of_oneShot hone
    exact ⟨f, hf, e s⟩
  | true =>
    cases i with
    | update data => exact answers_update data s
    | final => exact answers_final s
    | init | hash | vdigest | mine | vpow | compress | cteq | lzchk => cases hone

/-- A state that a command leaves is that of an effect that suits the command. -/
theorem exists_effect {i : Instr} {s t : State} (h : exec i s = .next t) :
    ∃ f : Effect, f.Suits i ∧ t = f.apply s := by
  obtain ⟨f, hf, e⟩ := answers i s
  exact ⟨f, hf, next_state_unique h e⟩

/-! ### What the effects share -/

/-- No effect touches the host's side of the state (R27, R61). -/
theorem Effect.apply_hostSide (f : Effect) (s : State) :
    (f.apply s).frames = s.frames ∧ (f.apply s).pc = s.pc ∧ (f.apply s).resetIn = s.resetIn := by
  cases f with
  | refuse | complete | search => exact ⟨rfl, rfl, rfl⟩

/-- Settles O47: of the effects that end a command, the refusal is the one with an error. -/
theorem errorsChangeOnlyStatus : Obligations.ErrorsChangeOnlyStatus := by
  intro i s t hexec hidle herr
  obtain ⟨f, -, rfl⟩ := exists_effect hexec
  cases f with
  | refuse e => rfl
  | complete => exact absurd rfl herr
  | search => cases hidle

/-- The error a command ends with in its first step is one of its refusals, or none. -/
theorem exec_err_mem {i : Instr} {s t : State} (hexec : exec i s = .next t) (hidle : t.busy = false) :
    t.err ∈ .ok :: i.opcode.refusals := by
  obtain ⟨f, hf, rfl⟩ := exists_effect hexec
  cases f with
  | refuse e => exact .tail _ hf.1
  | complete => exact .head _
  | search => cases hidle

/-- Settles O48: the table lists each command's refusals, and E_EXHAUST for MINE. -/
theorem errorsOfEachCommand : Obligations.ErrorsOfEachCommand := by
  intro i s t hexec hidle
  have hmem := exec_err_mem hexec hidle
  generalize i.opcode = op at hmem ⊢
  generalize t.err = e at hmem ⊢
  revert e
  cases op with
  | mine =>
    intro e hmem
    exact List.mem_append_left [.exhaust] hmem
  | init | update | final | hash | vdigest | vpow | compress | cteq | lzchk => exact fun _ => id

theorem Opcode.verifies_iff (op : Opcode) :
    op.verifies = true ↔ op = .vdigest ∨ op = .vpow ∨ op = .cteq ∨ op = .lzchk := by
  cases op <;> decide

theorem Opcode.writesOut_iff (op : Opcode) :
    op.writesOut = true ↔ op = .final ∨ op = .hash ∨ op = .mine ∨ op = .compress := by
  cases op <;> decide

/-- Settles O49: only the completion of a verify-type command has a verdict of 1. -/
theorem resultOnlyFromVerifyCommands : Obligations.ResultOnlyFromVerifyCommands := by
  intro i s t hexec hidle hresult
  obtain ⟨f, hf, rfl⟩ := exists_effect hexec
  cases f with
  | refuse => cases hresult
  | complete engine out nonce verdict =>
    obtain ⟨-, -, -, -, hverdict⟩ := hf
    exact ⟨rfl, (Opcode.verifies_iff i.opcode).mp (hverdict hresult)⟩
  | search => cases hidle

/-- Settles O50: OUT and NONCE are written only by the completions that carry a value for them, and NONCE by a MINE that
goes on. -/
theorem outAndNonceWriters : Obligations.OutAndNonceWriters := by
  intro i s t hexec
  obtain ⟨f, hf, rfl⟩ := exists_effect hexec
  refine ⟨fun hout => ?_, fun hnonce => ?_, f.apply_hostSide s⟩
  · cases f with
    | refuse | search => exact absurd rfl hout
    | complete engine out nonce verdict =>
      obtain ⟨-, -, hwrites, -⟩ := hf
      cases out with
      | none => exact absurd rfl hout
      | some => exact ⟨rfl, (Opcode.writesOut_iff i.opcode).mp hwrites.symm⟩
  · cases f with
    | refuse => exact absurd rfl hnonce
    | search =>
      obtain ⟨-, hmine, -⟩ := hf
      exact hmine
    | complete engine out nonce verdict =>
      obtain ⟨-, -, -, hmine, -⟩ := hf
      cases nonce with
      | none => exact absurd rfl hnonce
      | some => exact of_decide_eq_true hmine.symm

/-- The PHASE after a command that completes: the one it leaves, else the old one (R24). -/
theorem exec_phase {i : Instr} {s t : State} (hexec : exec i s = .next t) (hidle : t.busy = false) :
    (t.err = .ok → t.phase = i.opcode.phaseLeft.getD s.phase) ∧ (t.err ≠ .ok → t.phase = s.phase) := by
  obtain ⟨f, hf, rfl⟩ := exists_effect hexec
  cases f with
  | refuse e =>
    refine ⟨fun hok => ?_, fun _ => rfl⟩
    have hrefusal := Opcode.eq_of_mem_refusals _ _ hf.1
    simp only [Effect.apply, State.raise_err] at hok
    simp [hok] at hrefusal
  | complete engine out nonce verdict =>
    obtain ⟨-, hphase, -⟩ := hf
    exact ⟨fun _ => by rw [← hphase]; rfl, fun herr => absurd rfl herr⟩
  | search => cases hidle

/-- Settles O51: the table is the PHASE each command leaves. -/
theorem phaseTransitions : Obligations.PhaseTransitions := by
  intro i s t hexec hidle
  obtain ⟨hok, herr⟩ := exec_phase hexec hidle
  refine ⟨fun h => ?_, herr⟩
  rw [hok h]
  cases i.opcode with
  | init | update | final | hash | vdigest | mine | vpow | compress | cteq | lzchk => rfl

/-- Settles O53: the effect of an ill-formed command is a refusal, for the others suit a well-formed one only. -/
theorem illFormedCommandIsRefused : Obligations.IllFormedCommandIsRefused := by
  intro i s hill
  obtain ⟨f, hf, e⟩ := answers i s
  cases f with
  | refuse err => exact ⟨err, Opcode.eq_of_mem_refusals _ _ hf.1, e⟩
  | complete | search => simp [hf.1] at hill

/-! ### Two runs of a one-shot command (R33) -/

/-- A command that completes and writes NONCE, OUT or the engine writes the same on any two states. -/
theorem Effect.apply_complete_agree {i : Instr} (s₁ s₂ : State) {engine : Option (Ctx × Phase)} {out : Option Hash}
    {nonce : Option Dword} {verdict : Bool} (hf : (Effect.complete engine out nonce verdict).Suits i) :
    let t₁ := (Effect.complete engine out nonce verdict).apply s₁
    let t₂ := (Effect.complete engine out nonce verdict).apply s₂
    (i.opcode = .mine → t₁.nonce = t₂.nonce) ∧ (i.opcode.writesOut = true → t₁.out = t₂.out) ∧
      (i.opcode.phaseLeft ≠ none → t₁.ctx = t₂.ctx ∧ t₁.phase = t₂.phase) := by
  obtain ⟨-, hphase, hout, hnonce, -⟩ := hf
  refine ⟨fun hmine => ?_, fun hwrites => ?_, fun hleft => ?_⟩
  · rw [hmine] at hnonce
    obtain ⟨n, rfl⟩ := Option.isSome_iff_exists.mp hnonce
    rfl
  · rw [hwrites] at hout
    obtain ⟨x, rfl⟩ := Option.isSome_iff_exists.mp hout
    rfl
  · cases engine with
    | none => exact absurd hphase.symm hleft
    | some => exact ⟨rfl, rfl⟩

theorem Opcode.phaseLeft_ne_none {op : Opcode} (hcompress : op ≠ .compress) (hcteq : op ≠ .cteq)
    (hlzchk : op ≠ .lzchk) : op.phaseLeft ≠ none := by
  cases op with
  | compress => exact absurd rfl hcompress
  | cteq => exact absurd rfl hcteq
  | lzchk => exact absurd rfl hlzchk
  | init | update | final | hash | vdigest | mine | vpow => exact Option.some_ne_none _

/-- Settles O52: both runs have the same effect, and it writes what the statement compares. -/
theorem oneShotCommandsForgetHistory : Obligations.OneShotCommandsForgetHistory := by
  intro i s₁ s₂ t₁ t₂ hupdate hfinal h₁ h₂
  obtain ⟨f, hf, e⟩ := answersAlike_of_oneShot (Opcode.streams_eq_false hupdate hfinal)
  obtain rfl := next_state_unique h₁ (e s₁)
  obtain rfl := next_state_unique h₂ (e s₂)
  cases f with
  | refuse err =>
    obtain ⟨hmem, hill⟩ := hf
    refine ⟨rfl, rfl, fun _ hlegal => ?_, fun _ => ⟨rfl, rfl, fun hok => ?_⟩⟩
    · simp [hill (Opcode.streams_eq_false hupdate hfinal)] at hlegal
    · have hrefusal := Opcode.eq_of_mem_refusals _ _ hmem
      simp only [Effect.apply, State.raise_err] at hok
      simp [hok] at hrefusal
  | search j => exact ⟨rfl, rfl, fun _ _ => rfl, nofun⟩
  | complete engine out nonce verdict =>
    obtain ⟨hnonce, hout, hengine⟩ := Effect.apply_complete_agree s₁ s₂ hf
    refine ⟨rfl, rfl, fun hmine _ => hnonce hmine, fun _ => ⟨rfl, rfl, fun _ => ⟨fun hwrites => ?_, ?_⟩⟩⟩
    · exact hout ((Opcode.writesOut_iff i.opcode).mpr (.inr hwrites))
    · exact fun hcompress hcteq hlzchk => hengine (Opcode.phaseLeft_ne_none hcompress hcteq hlzchk)

end Machine
end Sys2Proof
end

section
/-! What the host sees: the index into its list of frames (10_state.md R27), the fields of STATUS (R28) and the host's reads of
STATUS, OUT and NONCE (R25, R31). -/

namespace Sys2Proof.Machine

/-! ### The index -/

@[simp] theorem State.attempt_pc (P : Params) (j : Search) (s : State) : (s.attempt P j).pc = s.pc := by
  obtain ⟨_, e⟩ | ⟨_, _, e⟩ | ⟨_, _, e⟩ := s.attempt_cases P j <;> rw [e] <;> rfl

theorem State.sampleReset_pc {s u : State} {level : Bool} (h : s.sampleReset = (level, u)) : u.pc = s.pc := by
  obtain ⟨_, e⟩ | ⟨_, _, _, e⟩ := s.sampleReset_cases <;> rw [h] at e <;> cases e <;> rfl

/-- Executing a frame leaves the index to `retire`. -/
theorem execute_pc {F : Frame} {s t : State} (h : execute F s = .next t) : t.pc = s.pc := by
  obtain ⟨i, -, e⟩ | ⟨err, -, e⟩ := execute_cases F s
  · obtain ⟨f, -, rfl⟩ := exists_effect (e.symm.trans h)
    exact (f.apply_hostSide s.accept).2.1
  · obtain rfl := next_state_unique h e
    rfl

/-- A step that retires an outcome has one, and it is the state before `retire`. -/
theorem exists_of_retireOutcome {r : Result} {t : State} (h : retireOutcome r = .next t) :
    ∃ v, r = .next v ∧ t = v.retire := by
  cases r with
  | next v => exact ⟨v, rfl, (Host.Outcome.next.inj h).symm⟩
  | fault | refused => cases h

/-- With a command to run, a step retires the state the command leaves, which has the old index. -/
theorem exists_retire_of_stepRunning {u t : State} (h : stepRunning u = .next t)
    (hcommand : u.busy = true ∨ u.frames ≠ []) : ∃ v : State, v.pc = u.pc ∧ t = v.retire := by
  obtain ⟨-, e⟩ | ⟨hidle, hnil, -⟩ | ⟨F, rest, -, -, e⟩ := stepRunning_cases u
  · obtain ⟨v, hv, rfl⟩ := exists_of_retireOutcome (e.symm.trans h)
    obtain ⟨-, efault⟩ | ⟨j, -, enext⟩ := continueSearchWith_cases Config.params u
    · cases efault.symm.trans hv
    · obtain rfl := next_state_unique hv enext
      exact ⟨_, State.attempt_pc .., rfl⟩
  · simp [hidle, hnil] at hcommand
  · obtain ⟨v, hv, rfl⟩ := exists_of_retireOutcome (e.symm.trans h)
    have hpc := execute_pc hv
    exact ⟨v, hpc, rfl⟩

/-- Settles O58: the command leaves the index alone, and `retire` advances it when BUSY is 0. -/
theorem indexAdvancesByOne : Obligations.IndexAdvancesByOne := by
  intro s u t hlow hstep hcommand
  rw [step_of_sampleReset_low hlow] at hstep
  obtain ⟨v, hpc, rfl⟩ := exists_retire_of_stepRunning hstep hcommand
  rw [State.retire_pc, State.retire_busy, hpc, State.sampleReset_pc hlow]

/-! ### STATUS -/

@[simp] theorem oneBit_getElem_zero (b : Bool) : (oneBit b)[0] = b := by cases b <;> rfl

theorem State.status_busy (s : State) : s.status.getLsbD 0 = s.busy := by
  simp only [State.status, BitVec.getLsbD_append]
  simp

theorem State.status_result (s : State) : s.status.getLsbD 3 = s.result := by
  simp only [State.status, BitVec.getLsbD_append]
  simp

theorem State.status_phase (s : State) : s.status.extractLsb' 1 2 = s.phase.code := by
  apply BitVec.eq_of_getLsbD_eq
  intro k hk
  simp only [State.status, BitVec.getLsbD_extractLsb', BitVec.getLsbD_append]
  grind

theorem State.status_err (s : State) : s.status.extractLsb' 4 4 = s.err.code := by
  apply BitVec.eq_of_getLsbD_eq
  intro k hk
  simp only [State.status, BitVec.getLsbD_extractLsb', BitVec.getLsbD_append]
  grind

theorem Phase.code_ne_three (p : Phase) : p.code.toNat ≠ 3 := by cases p <;> decide

theorem ErrCode.code_le_six (e : ErrCode) : e.code.toNat ≤ 6 := by cases e <;> decide

/-- Settles O54: each field at its bits, the codes by evaluation, and STATUS of the reset state. -/
theorem statusFields : Obligations.StatusFields := by
  refine ⟨fun s => ⟨s.status_busy, s.status_phase, s.status_result, s.status_err, ?_, ?_⟩, ⟨rfl, rfl, rfl⟩,
    ⟨rfl, rfl, rfl, rfl, rfl, rfl, rfl⟩, rfl⟩
  · rw [State.status_phase]
    exact s.phase.code_ne_three
  · rw [State.status_err]
    exact s.err.code_le_six

/-! ### The ports -/

theorem State.outPort_extractLsb' (s : State) (k : Fin 16) : s.outPort.extractLsb' (8 * k.val) 8 = s.out[k.val] := by
  have hlt : leNat s.out.toList < 2 ^ 128 := by simpa using leNat_lt s.out.toList
  apply BitVec.eq_of_toNat_eq
  rw [BitVec.extractLsb'_toNat, Nat.shiftRight_eq_div_pow, State.outPort, BitVec.toNat_ofNat, Nat.mod_eq_of_lt hlt,
    leNat_div_mod _ k.val (by simp), Vector.getElem_toList]

/-- Settles O55: the bytes of the OUT port, and the guard of each read. -/
theorem outputPorts : Obligations.OutputPorts := by
  intro s
  refine ⟨s.outPort_extractLsb', rfl, fun hbusy => ?_, fun hidle => ?_⟩
  · simp [State.readStatus, State.readOut, State.readNonce, hbusy]
  · simp [State.readStatus, State.readOut, State.readNonce, hidle]

end Sys2Proof.Machine
end

section
/-! The invariant between commands (10_state.md R36): it speaks of the engine context and PHASE only, which are, before
finalization, those of an absorbed message, and after it those of a finished one. With it no run stops. -/

namespace Sys2Proof.Machine

/-! ### The engine's part of the invariant -/

theorem ofNat_toNat_of_fits {n : Nat} (h : n < 2 ^ 61) : (BitVec.ofNat 64 n).toNat = n := by
  rw [BitVec.toNat_ofNat, Nat.mod_eq_of_lt (by omega)]

/-- A context that has absorbed a message meets the invariant in PHASE ACC. -/
theorem engineInv_of_absorbed {P : Params} {s : State} {m : List Byte} (hphase : s.phase = .acc)
    (hfits : m.length < 2 ^ 61) (hctx : s.ctx = absorb P (fresh P) m) : EngineInv P s := by
  rw [absorb_fresh] at hctx
  have hh : s.h = chainOver P P.iv m := congrArg Ctx.h hctx
  have hbuf : s.buf = remainder m := congrArg Ctx.buf hctx
  have htotal : s.total.toNat = m.length := by
    rw [← ofNat_toNat_of_fits hfits]
    exact congrArg (·.total.toNat) hctx
  refine ⟨?_, fun _ => ⟨?_, m, htotal.symm, hh, hbuf⟩, ?_, ?_, by omega⟩
  · rw [State.bufLen_eq, hbuf, remainder_length]
    omega
  · rw [State.bufLen_eq, hbuf, remainder_length, htotal]
  · simp [hphase]
  · simp [hphase]

/-- The fresh context meets the invariant in PHASE INIT. -/
theorem engineInv_of_fresh {P : Params} {s : State} (hphase : s.phase = .init) (hctx : s.ctx = fresh P) :
    EngineInv P s := by
  have hh : s.h = P.iv := congrArg Ctx.h hctx
  have hbuf : s.buf = [] := congrArg Ctx.buf hctx
  have htotal : s.total = 0 := congrArg Ctx.total hctx
  refine ⟨?_, fun _ => ⟨?_, [], ?_, ?_, ?_⟩, fun _ => ⟨htotal, ?_, hh⟩, ?_, ?_⟩
  all_goals simp [hh, hbuf, htotal, hphase, chainOver_of_length_lt, remainder_of_length_lt]

/-- The finished context of a message meets the invariant in PHASE FIN. -/
theorem engineInv_of_finished {P : Params} {s : State} {m : List Byte} (hphase : s.phase = .fin)
    (hfits : m.length < 2 ^ 61) (hctx : s.ctx = finishedCtx P m) : EngineInv P s := by
  have hh : s.h = chainOver P P.iv (pad m) := congrArg Ctx.h hctx
  have hbuf : s.buf = [] := congrArg Ctx.buf hctx
  have htotal : s.total.toNat = m.length := by
    rw [← ofNat_toNat_of_fits hfits]
    exact congrArg (·.total.toNat) hctx
  refine ⟨by simp [hbuf], ?_, ?_, fun _ => ⟨by simp [hbuf], m, htotal.symm, hh⟩, by omega⟩
  · simp [hphase]
  · simp [hphase]

/-- Before finalization the invariant is that some message has been absorbed from the start. -/
theorem EngineInv.exists_absorbed {P : Params} {s : State} (hinv : EngineInv P s) (hphase : s.phase ≠ .fin) :
    ∃ m : List Byte, m.length = s.total.toNat ∧ s.ctx = absorb P (fresh P) m := by
  obtain ⟨-, m, hlen, hh, hbuf⟩ := hinv.streaming hphase
  have htotal : BitVec.ofNat 64 m.length = s.total := by rw [hlen, BitVec.ofNat_toNat, BitVec.setWidth_eq]
  exact ⟨m, hlen, by rw [absorb_fresh, ← hh, ← hbuf, htotal]; rfl⟩

/-- The invariant speaks of the engine context and PHASE only. -/
theorem EngineInv.of_same_engine {P : Params} {s t : State} (hinv : EngineInv P s) (hctx : t.ctx = s.ctx)
    (hphase : t.phase = s.phase) : EngineInv P t := by
  have hh : t.h = s.h := congrArg Ctx.h hctx
  have hbuf : t.buf = s.buf := congrArg Ctx.buf hctx
  have htotal : t.total = s.total := congrArg Ctx.total hctx
  obtain ⟨hle, hstreaming, hinitial, hfinished, hlt⟩ := hinv
  rw [← hphase, State.bufLen, ← hh, ← hbuf, ← htotal] at *
  exact ⟨hle, hstreaming, hinitial, hfinished, hlt⟩

/-! ### Each command keeps it -/

theorem engineInv_update {data : List Byte} {s t : State} (hinv : EngineInv Config.params s)
    (h : exec (.update data) s = .next t) : EngineInv Config.params t := by
  rw [exec_update_eq] at h
  obtain ⟨_, e⟩ | ⟨_, _, e⟩ | ⟨hphase, hfits, e⟩ := execUpdateWith_cases Config.params data s <;>
    obtain rfl := next_state_unique h e
  · exact hinv.of_same_engine rfl rfl
  · exact hinv.of_same_engine rfl rfl
  · obtain ⟨m, hlen, hctx⟩ := hinv.exists_absorbed hphase
    refine engineInv_of_absorbed (m := m ++ data) rfl (by rw [List.length_append]; omega) ?_
    rw [← absorb_append, ← hctx]
    rfl

theorem engineInv_final {s t : State} (hinv : EngineInv Config.params s) (h : exec .final s = .next t) :
    EngineInv Config.params t := by
  rw [exec_final_eq] at h
  obtain ⟨_, e⟩ | ⟨hphase, e⟩ := execFinalWith_cases Config.params s <;> obtain rfl := next_state_unique h e
  · exact hinv.of_same_engine rfl rfl
  · obtain ⟨m, hlen, hctx⟩ := hinv.exists_absorbed hphase
    refine engineInv_of_finished (m := m) rfl (hlen ▸ hinv.total_lt) ?_
    rw [← finish_absorb_fresh, ← hctx]
    rfl

theorem engineInv_hash {data : List Byte} {s t : State} (hinv : EngineInv Config.params s)
    (h : exec (.hash data) s = .next t) : EngineInv Config.params t := by
  obtain hfits | hlong := Nat.lt_or_ge data.length (2 ^ 61)
  · obtain rfl := next_state_unique h (exec_hash_of_fits s hfits)
    exact engineInv_of_finished rfl hfits rfl
  · obtain rfl := next_state_unique h (exec_hash_of_tooLong s hlong)
    exact hinv.of_same_engine rfl rfl

theorem engineInv_vdigest {exp : Hash} {data : List Byte} {s t : State} (hinv : EngineInv Config.params s)
    (h : exec (.vdigest exp data) s = .next t) : EngineInv Config.params t := by
  obtain hfits | hlong := Nat.lt_or_ge data.length (2 ^ 61)
  · obtain rfl := next_state_unique h (exec_vdigest_of_fits exp s hfits)
    exact engineInv_of_finished rfl hfits rfl
  · obtain rfl := next_state_unique h (exec_vdigest_of_tooLong exp s hlong)
    exact hinv.of_same_engine rfl rfl

/-- The context a proof-of-work hash leaves meets the invariant. -/
theorem engineInv_of_spent {P : Params} {s : State} {data : List Byte} {n : Dword} (hphase : s.phase = .fin)
    (hfits : data.length + 8 < 2 ^ 61) (hctx : s.ctx = spentCtx (powhash P data n) data) : EngineInv P s := by
  rw [spentCtx_powhash] at hctx
  exact engineInv_of_finished hphase (by rwa [preimage, powhash_preimage_length]) hctx

/-- An attempt that ends its MINE leaves a finished context (R153, R177). -/
theorem engineInv_attempt {P : Params} {j : Search} {s : State} (hfits : j.data.length + 8 < 2 ^ 61)
    (hidle : (s.attempt P j).busy = false) : EngineInv P (s.attempt P j) := by
  obtain ⟨_, e⟩ | ⟨_, _, e⟩ | ⟨_, _, e⟩ := s.attempt_cases P j <;> rw [e] at hidle ⊢
  · exact engineInv_of_spent rfl hfits rfl
  · exact engineInv_of_spent rfl hfits rfl
  · cases hidle

theorem engineInv_mine {d : Byte} {data : List Byte} {s t : State} (hinv : EngineInv Config.params s)
    (h : exec (.mine d data) s = .next t) (hidle : t.busy = false) : EngineInv Config.params t := by
  rw [exec_mine_eq] at h
  obtain ⟨_, e⟩ | ⟨_, _, e⟩ | ⟨_, hfits, e⟩ := execMineWith_cases Config.params d data s <;>
    obtain rfl := next_state_unique h e
  · exact hinv.of_same_engine rfl rfl
  · exact hinv.of_same_engine rfl rfl
  · exact engineInv_attempt hfits hidle

theorem engineInv_vpow {d : Byte} {nonce : Dword} {exp : Hash} {data : List Byte} {s t : State}
    (hinv : EngineInv Config.params s) (h : exec (.vpow d nonce exp data) s = .next t) :
    EngineInv Config.params t := by
  rw [exec_vpow_eq] at h
  obtain ⟨_, e⟩ | ⟨_, _, e⟩ | ⟨_, hfits, e⟩ := execVpowWith_cases Config.params d nonce exp data s <;>
    obtain rfl := next_state_unique h e
  · exact hinv.of_same_engine rfl rfl
  · exact hinv.of_same_engine rfl rfl
  · exact engineInv_of_spent rfl hfits rfl

theorem engineInv_lzchk {d : Byte} {x : Hash} {s t : State} (hinv : EngineInv Config.params s)
    (h : exec (.lzchk d x) s = .next t) : EngineInv Config.params t := by
  rw [exec_lzchk_eq] at h
  obtain ⟨_, e⟩ | ⟨_, e⟩ := execLzchk_cases d x s <;> obtain rfl := next_state_unique h e
  · exact hinv.of_same_engine rfl rfl
  · exact hinv.of_same_engine rfl rfl

/-- A command that ends in its first step keeps the engine's invariant. -/
theorem engineInv_exec {i : Instr} {s t : State} (hinv : EngineInv Config.params s) (h : exec i s = .next t)
    (hidle : t.busy = false) : EngineInv Config.params t := by
  cases i with
  | init =>
    obtain rfl := next_state_unique h (exec_init_eq s)
    exact engineInv_of_fresh rfl rfl
  | update data => exact engineInv_update hinv h
  | final => exact engineInv_final hinv h
  | hash data => exact engineInv_hash hinv h
  | vdigest exp data => exact engineInv_vdigest hinv h
  | mine d data => exact engineInv_mine hinv h hidle
  | vpow d nonce exp data => exact engineInv_vpow hinv h
  | compress st m =>
    obtain rfl := next_state_unique h (exec_compress_eq st m s)
    exact hinv.of_same_engine rfl rfl
  | cteq a b =>
    obtain rfl := next_state_unique h (exec_cteq_eq a b s)
    exact hinv.of_same_engine rfl rfl
  | lzchk d x => exact engineInv_lzchk hinv h

/-! ### The machine's invariant -/

/-- The invariant does not speak of the host's side of the state. -/
theorem State.Inv.of_same_block {s t : State} (hinv : s.Inv) (hctx : t.ctx = s.ctx) (hphase : t.phase = s.phase)
    (hbusy : t.busy = s.busy) (hsearch : t.search = s.search) (hresult : t.result = s.result)
    (herr : t.err = s.err) : t.Inv where
  idle hidle := (hinv.idle (hbusy ▸ hidle)).of_same_engine hctx hphase
  busy_search := by rw [hbusy, hsearch, hinv.busy_search]
  search_fits j hj := hinv.search_fits j (hsearch ▸ hj)
  result_ok h := by rw [herr, hinv.result_ok (hresult ▸ h)]

theorem State.Inv.retire {s : State} (hinv : s.Inv) : s.retire.Inv :=
  hinv.of_same_block (by simp [State.ctx]) (by simp) (by simp) (by simp) (by simp) (by simp)

/-- A command that is over, with the engine's invariant, leaves the invariant. -/
theorem State.Inv.of_ended {s : State} (hengine : EngineInv Config.params s) (hbusy : s.busy = false)
    (hsearch : s.search = none) (hresult : s.result = true → s.err = .ok) : s.Inv where
  idle _ := hengine
  busy_search := by rw [hbusy, hsearch]; rfl
  search_fits j hj := by simp [hsearch] at hj
  result_ok := hresult

/-- A search of data that passed the E_LEN test, in a block with BUSY = 1, leaves the invariant. -/
theorem State.Inv.of_searching {s : State} {j : Search} (hbusy : s.busy = true) (hsearch : s.search = some j)
    (hfits : j.data.length + 8 < 2 ^ 61) (hresult : s.result = true → s.err = .ok) : s.Inv where
  idle hidle := by simp [hbusy] at hidle
  busy_search := by rw [hbusy, hsearch]; rfl
  search_fits j' hj' := by
    obtain rfl : j = j' := by simpa [hsearch] using hj'
    exact hfits
  result_ok := hresult

theorem inv_assertReset (s : State) : (s.assertReset Config.params).Inv :=
  .of_ended (engineInv_of_fresh rfl rfl) rfl rfl nofun

/-- Settles O56: the reset state has a fresh context, and no command in progress. -/
theorem resetSatisfiesInvariant : Obligations.ResetSatisfiesInvariant :=
  .of_ended (engineInv_of_fresh State.reset_phase State.reset_ctx) rfl rfl nofun

theorem inv_attempt {j : Search} {s : State} (hfits : j.data.length + 8 < 2 ^ 61)
    (hresult : s.result = true → s.err = .ok) : (s.attempt Config.params j).Inv := by
  have hengine := engineInv_attempt (P := Config.params) (s := s) hfits
  obtain ⟨_, e⟩ | ⟨_, _, e⟩ | ⟨_, _, e⟩ := s.attempt_cases Config.params j <;> rw [e] at hengine ⊢
  · exact .of_ended (hengine rfl) rfl rfl nofun
  · exact .of_ended (hengine rfl) rfl rfl nofun
  · exact .of_searching rfl rfl hfits hresult

/-- A command run with the engine's invariant leaves the machine's. -/
theorem inv_exec {i : Instr} {s t : State} (hengine : EngineInv Config.params s)
    (hresult : s.result = true → s.err = .ok) (h : exec i s = .next t) : t.Inv := by
  have hkeeps := engineInv_exec hengine h
  obtain ⟨f, hf, rfl⟩ := exists_effect h
  cases f with
  | refuse => exact .of_ended (hkeeps rfl) rfl rfl nofun
  | complete => exact .of_ended (hkeeps rfl) rfl rfl fun _ => rfl
  | search j =>
    obtain ⟨-, -, hfits⟩ := hf
    exact .of_searching rfl rfl hfits hresult

/-- Executing a frame neither faults nor refuses, and leaves the invariant. -/
theorem exists_execute_inv (F : Frame) {s : State} (hinv : s.Inv) (hidle : s.busy = false) :
    ∃ t, execute F s = .next t ∧ t.Inv := by
  have hengine : EngineInv Config.params s.accept := (hinv.idle hidle).of_same_engine rfl rfl
  obtain ⟨i, -, e⟩ | ⟨err, -, e⟩ := execute_cases F s
  · obtain ⟨f, -, ht⟩ := answers i s.accept
    exact ⟨_, e.trans ht, inv_exec hengine hinv.result_ok ht⟩
  · exact ⟨_, e, .of_ended (hengine.of_same_engine rfl rfl) rfl rfl nofun⟩

theorem exists_stepRunning_inv {s : State} (hinv : s.Inv) : ∃ t, stepRunning s = .next t ∧ t.Inv := by
  obtain ⟨hbusy, -⟩ | ⟨-, -, e⟩ | ⟨F, rest, hidle, -, e⟩ := stepRunning_cases s
  · obtain ⟨j, hj⟩ := Option.isSome_iff_exists.mp (hinv.busy_search ▸ hbusy)
    exact ⟨_, stepRunning_of_search hbusy hj, (inv_attempt (hinv.search_fits j hj) hinv.result_ok).retire⟩
  · exact ⟨s, e, hinv⟩
  · have hinv' : ({ s with frames := rest } : State).Inv := hinv.of_same_block rfl rfl rfl rfl rfl rfl
    obtain ⟨t, ht, hkeeps⟩ := exists_execute_inv F hinv' hidle
    exact ⟨_, by rw [e, ht, retireOutcome_next], hkeeps.retire⟩

/-- A step from a state with the invariant neither faults nor refuses, and keeps it. -/
theorem exists_step_inv {s : State} (hinv : s.Inv) : ∃ t, step s = .next t ∧ t.Inv := by
  obtain ⟨rest, -, e⟩ | ⟨rest, -, e⟩ | ⟨-, e⟩ := step_cases s
  · exact ⟨_, e, inv_assertReset _⟩
  · rw [e]
    exact exists_stepRunning_inv (hinv.of_same_block rfl rfl rfl rfl rfl rfl)
  · rw [e]
    exact exists_stepRunning_inv hinv

/-- Settles O57: the one state the step leads to has the invariant. -/
theorem everyStepKeepsInvariant : Obligations.EveryStepKeepsInvariant := by
  intro s t hinv hstep
  obtain ⟨t', ht', hkeeps⟩ := exists_step_inv hinv
  rwa [next_state_unique hstep ht']

/-- Settles O59: each step leads to a state with the invariant, from which the rest of the run goes on. -/
theorem everyRunIsSafe : Obligations.EveryRunIsSafe := by
  intro s hinv k
  induction k generalizing s with
  | zero => exact ⟨s, run_zero s⟩
  | succ k ih =>
    obtain ⟨t, ht, hkeeps⟩ := exists_step_inv hinv
    rw [run_succ_of_next k ht]
    exact ih t hkeeps

end Sys2Proof.Machine
end
